-- ==== Sys2Proof/Word.lean ====
section
/-! DEFINITION. Word.lean: the data the block moves (R8): bytes, 6-bit addresses, levels, and what the
host presents on the command port. -/

namespace Sys2Proof

/-- A byte (R8): the only datum the block moves (R54). -/
abbrev Byte := BitVec 8

/-- A RegisterAddress, `ADDR_W` = 6 bits (R7, R80). -/
abbrev Addr := BitVec 6

/-- A level, one bit (R8): `true` is 1. -/
abbrev Level := Bool

/-- What the host presents on the command port: the unit the block takes an instruction from.
`cmd3` is the command record of R88, whose data are in DBUF.
`hdr8` is the host's name for a record: the one whose bus operation has this header byte (the HDR8 rows,
R80 to R86) and this number of data bytes, which no header holds (R84). The block examines no header
(R86 c): such a word does what its record does. Log entry 11. -/
inductive PortWord where
  | cmd3 (op : BitVec 3) (addr : Addr) (len : Byte) (level : Level)
  | hdr8 (header : Byte) (len : Byte)
  deriving DecidableEq, Repr

end Sys2Proof
end

