-- ==== Sys2Proof/Config.lean ====
section
/-! DEFINITION. Config.lean: the parameters of R7, the constant inputs of R30, and the free values. -/

namespace Sys2Proof

/-- `POLL_LIMIT` (R7, R153): none, or an integer at least 1.
`bounded m` is the integer `m + 1`, so that the illegal bound 0 cannot be written (log entry 7). -/
inductive PollLimit where
  | unbounded
  | bounded (lessOne : Nat)
  deriving DecidableEq, Repr, Inhabited

/-- `COMPLETION_POLICY` (R7, R155). -/
inductive Policy where
  | signalPoll
  | fixedDelay
  deriving DecidableEq, Repr

/-- The BUS agent's answer to one exchange (R52): a received byte, or a fault. -/
inductive BusAnswer where
  | ok (received : Byte)
  | fault
  deriving DecidableEq, Repr, Inhabited

namespace Config

/-! The source's constants (R7). -/

/-- `ADDR_MASK`, R7. -/
def addrMask : Byte := 0x3F
/-- `FLAG_STROBE`, R7, R81. -/
def flagStrobe : Byte := 0x00
/-- `WRITE_BURST_FLAG`, R7, R81. -/
def writeBurstFlag : Byte := 0x40
/-- `READ_BURST_FLAG`, R7, R81. -/
def readBurstFlag : Byte := 0xC0
/-- `CONFIG_BASE`, R7. -/
def configBase : Addr := 0x00
/-- `POWER_TABLE_ADDRESS`, R7. -/
def powerTableAddress : Addr := 0x3E
/-- `FIFO_TX_ADDRESS`, R7. -/
def fifoTxAddress : Addr := 0x3F
/-- `TX_ADDRESS`, R7. -/
def txAddress : Addr := 0x35
/-- `IDLE_ADDRESS`, R7. -/
def idleAddress : Addr := 0x36
/-- `TX_STATUS_ADDRESS`, R7. -/
def txStatusAddress : Addr := 0x3A
/-- `TX_STATUS_MASK`, R7. -/
def txStatusMask : Byte := 0x7F
/-- `CFG_LEN`, R7. -/
def cfgLen : Byte := 47
/-- `PA_LEN`, R7. -/
def paLen : Byte := 8
/-- `PA0`, R7, R34. -/
def pa0 : Byte := 0xC0
/-- `DUMMY`, R7, R85. -/
def dummy : Byte := 0x00
/-- The number of bytes of DBUF and of RBUF, `PKT_MAX`, R7, R31, R32. -/
def bufLen : Nat := 255
/-- `COMPLETION_POLICY` of this hardware, R7, R155. -/
def completionPolicy : Policy := .signalPoll

/-! OPEN parameters (R7): constants with no body, so that nothing can be proved of their values.
State holds them as data; these are only what the reset state holds (log entry 6). -/

/-- `CFG[0..46]`, OPEN (R7, R33, N2). -/
opaque cfgTable : Vector Byte 47
/-- `IDLE_LEVEL`, OPEN (R7, R151, N14). -/
opaque idleLevel : Level
/-- `POLL_LIMIT`, OPEN (R7, R153, N8). -/
opaque pollLimit : PollLimit

/-! Free values: uninterpreted functions of the counter `draws` of State (log entry 4). -/

/-- The BUS agent's answer when State lists none (R5, R65). -/
opaque freeBus : Nat → BusAnswer
/-- A level of the completion line or of a synchronizer flip-flop that State does not list (R5, R151). -/
opaque freeLevel : Nat → Level
/-- A byte that holds no value: DBUF or RBUF never written (R31, R32, U9, U12). -/
opaque freeByte : Nat → Byte
/-- `txstat` after an abort (R27, R179, U8). -/
opaque freeTxstat : Nat → BitVec 7

end Config
end Sys2Proof
end

