-- ==== Sys2Proof/Syntax.lean ====
section
/-! DEFINITION. Syntax.lean: the instructions, one constructor for each mnemonic of the opcode table.
An address operand is the byte the host writes (R91); what fits the 6-bit field is `Instr.wf`'s
business, and every meaning takes the low 6 bits (R25, R82, C1). -/

namespace Sys2Proof

/-- The instructions: the host commands of R88, the aliases of R92 and the reserved encodings of R86
and R89. -/
inductive Instr where
  /-- `strobe(address)`, R111 -/
  | strobe (addr : Byte)
  /-- `writeBurst(address, data)`, `data = DBUF[0..len-1]`, R112 -/
  | wburst (addr : Byte) (len : Byte)
  /-- `readBurst(address, length)`, R113 -/
  | rburst (addr : Byte) (len : Byte)
  /-- a bus operation whose header has the reserved mode `0b10`, R86 -/
  | hdrReserved (addr : Byte)
  /-- `STROBE 0x36`, R92 -/
  | sidle
  /-- `STROBE 0x35`, R92 -/
  | stx
  /-- `WBURST 0x3E, d`, R92 -/
  | wrPatable (len : Byte)
  /-- `WBURST 0x00, d`, R92 -/
  | wrConfig (len : Byte)
  /-- `WBURST 0x3F, d`, R92 -/
  | wrTxfifo (len : Byte)
  /-- `RBURST 0x3A, 1`, R92 -/
  | rdTxstatus
  /-- Initialize, R130 -/
  | init
  /-- Transmit(payload), `payload = DBUF[0..len-1]`, R134 -/
  | tx (len : Byte)
  /-- `waitForState(targetLevel)`, R154 -/
  | wait (level : Level)
  /-- reserved command code `0b010`, R89 -/
  | cmdReserved010
  /-- reserved command code `0b111`, R89 -/
  | cmdReserved111
  deriving DecidableEq, Repr

end Sys2Proof
end

