-- ==== Sys2Proof/WellFormed.lean ====
section
/-! DEFINITION. WellFormed.lean: which instructions a port word can carry.
A command record has 6 bits for the address (R88) and a header has 6 bits for it (R80); a wider
address is not refused by the block, it is masked (R82, C1), so it has no word of its own. -/

namespace Sys2Proof

/-- The address fits the 6-bit field of R80 and R88. -/
def addrFits (addr : Byte) : Bool := addr.toNat < 64

/-- Every operand fits its field. -/
def Instr.wf : Instr → Bool
  | .strobe addr => addrFits addr
  | .wburst addr _ => addrFits addr
  | .rburst addr _ => addrFits addr
  | .hdrReserved addr => addrFits addr
  | .sidle => true
  | .stx => true
  | .wrPatable _ => true
  | .wrConfig _ => true
  | .wrTxfifo _ => true
  | .rdTxstatus => true
  | .init => true
  | .tx _ => true
  | .wait _ => true
  | .cmdReserved010 => true
  | .cmdReserved111 => true

end Sys2Proof
end

