-- ==== Sys2Proof/Decode.lean ====
section
/-! DEFINITION. Decode.lean: from a port word to its instruction, and back.
Every 3-bit command code (R88, R89) and every header byte (R80, R81, R86) has a row of the opcode
table, so decoding is total and refuses nothing; a reserved row decodes to its own constructor. -/

namespace Sys2Proof

/-- An address field as an operand. -/
def addrOperand (addr : Addr) : Byte := addr.setWidth 8

/-- The low 6 bits of an address operand (R25, R82). -/
def low6 (addr : Byte) : Addr := addr.setWidth 6

/-- The command codes (R88, R89). -/
def decodeCmd (op : BitVec 3) (addr : Addr) (len : Byte) (level : Level) : Instr :=
  if op = 0b000#3 then .strobe (addrOperand addr)
  else if op = 0b001#3 then .wburst (addrOperand addr) len
  else if op = 0b010#3 then .cmdReserved010
  else if op = 0b011#3 then .rburst (addrOperand addr) len
  else if op = 0b100#3 then .init
  else if op = 0b101#3 then .tx len
  else if op = 0b110#3 then .wait level
  else .cmdReserved111

/-- The mode field of a header, bits 7:6 (R80). -/
def headerMode (h : Byte) : BitVec 2 := h.extractLsb' 6 2

/-- The address field of a header, bits 5:0 (R80). -/
def headerAddr (h : Byte) : Addr := h.extractLsb' 0 6

/-- The instruction a header names by its mode alone (R81, R86; log entries 11 and 12). -/
def decodeMode (h len : Byte) : Instr :=
  if headerMode h = 0b00#2 then .strobe (addrOperand (headerAddr h))
  else if headerMode h = 0b01#2 then .wburst (addrOperand (headerAddr h)) len
  else if headerMode h = 0b11#2 then .rburst (addrOperand (headerAddr h)) len
  else .hdrReserved (addrOperand (headerAddr h))

/-- The instruction a header names: the six headers that have a row of their own (R83, R92), then the mode's
row. It reads the host's name of a command record, not a byte the block receives: the block decodes no
header (R86 c; log entry 11). DESIGN CHOICE: `0xFA` names RD_TXSTATUS, which reads one byte, whatever length
stands beside it (R92 leaves it open; log entry 26). -/
def decodeHeader (h len : Byte) : Instr :=
  if h = 0x36#8 then .sidle
  else if h = 0x35#8 then .stx
  else if h = 0x7E#8 then .wrPatable len
  else if h = 0x40#8 then .wrConfig len
  else if h = 0x7F#8 then .wrTxfifo len
  else if h = 0xFA#8 then .rdTxstatus
  else decodeMode h len

/-- The instruction of a port word. -/
def decode : PortWord → Instr
  | .cmd3 op addr len level => decodeCmd op addr len level
  | .hdr8 header len => decodeHeader header len

/-- The port word of an instruction, ignored operands 0: the command code where the instruction has
one (R88, R89), else its header byte (R83, R86). -/
def encode : Instr → PortWord
  | .strobe addr => .cmd3 0b000 (low6 addr) 0 false
  | .wburst addr len => .cmd3 0b001 (low6 addr) len false
  | .rburst addr len => .cmd3 0b011 (low6 addr) len false
  | .hdrReserved addr => .hdr8 (0b10#2 ++ low6 addr) 0
  | .sidle => .hdr8 0b00110110 0
  | .stx => .hdr8 0b00110101 0
  | .wrPatable len => .hdr8 0b01111110 len
  | .wrConfig len => .hdr8 0b01000000 len
  | .wrTxfifo len => .hdr8 0b01111111 len
  | .rdTxstatus => .hdr8 0b11111010 1
  | .init => .cmd3 0b100 0 0 false
  | .tx len => .cmd3 0b101 0 len false
  | .wait level => .cmd3 0b110 0 0 level
  | .cmdReserved010 => .cmd3 0b010 0 0 false
  | .cmdReserved111 => .cmd3 0b111 0 0 false

/-- The command record a port word stands for: a header's two mode bits are the low two bits of the
command code (R88), its address is the address operand. Log entry 11. -/
def PortWord.opField : PortWord → BitVec 3
  | .cmd3 op _ _ _ => op
  | .hdr8 header _ => 0b0#1 ++ headerMode header

/-- The address operand of the record a port word stands for. -/
def PortWord.addrField : PortWord → Addr
  | .cmd3 _ addr _ _ => addr
  | .hdr8 header _ => headerAddr header

/-- The length operand of the record a port word stands for; that of RD_TXSTATUS is 1 (R92; log entry 26). -/
def PortWord.lenField : PortWord → Byte
  | .cmd3 _ _ len _ => len
  | .hdr8 header len => if header = 0xFA#8 then 1 else len

/-- The level operand of the record a port word stands for (a header has none: 0). -/
def PortWord.levelField : PortWord → Level
  | .cmd3 _ _ _ level => level
  | .hdr8 _ _ => false

/-- The command record a port word stands for (R88): all that the block sees of it (R86 c; log entry 11). -/
def PortWord.record (w : PortWord) : PortWord :=
  .cmd3 w.opField w.addrField w.lenField w.levelField

/-- The framing function (R82): `Frame(a, f) = (a & 0x3F) | f`, total on bytes. -/
def frame (a f : Byte) : Byte := (a &&& Config.addrMask) ||| f

/-- The header bytes an instruction puts on the bus when nothing fails, in order (R83, R111 to R113,
R130, R134). -/
def Instr.headers : Instr → List Byte
  | .strobe addr => [frame addr Config.flagStrobe]
  | .wburst addr _ => [frame addr Config.writeBurstFlag]
  | .rburst addr _ => [frame addr Config.readBurstFlag]
  | .hdrReserved _ => []
  | .sidle => [0x36]
  | .stx => [0x35]
  | .wrPatable _ => [0x7E]
  | .wrConfig _ => [0x40]
  | .wrTxfifo _ => [0x7F]
  | .rdTxstatus => [0xFA]
  | .init => [0x7E, 0x40]
  | .tx _ => [0x36, 0x7F, 0x35, 0xFA]
  | .wait _ => []
  | .cmdReserved010 => []
  | .cmdReserved111 => []

/-- An opcode-table word as the port word that stands for it, operands above `nbits` zero.
The two formats of the table both fit one byte and their numbers overlap: a number below 8 is read
as a command code (CMD3), another as a header byte (HDR8). Log entry 13. -/
def tableWord (nbits w : Nat) : Option PortWord :=
  if (nbits = 3 ∨ nbits = 8) ∧ w < 8 then some (.cmd3 (BitVec.ofNat 3 w) 0 0 false)
  else if nbits = 8 ∧ w < 256 then some (.hdr8 (BitVec.ofNat 8 w) 0)
  else none

/-- What the decoder reads from an opcode-table word. -/
def decodeTableWord (nbits w : Nat) : Option Instr := (tableWord nbits w).map decode

end Sys2Proof
end

