-- ==== Sys2Proof/Machine/State.lean ====
section
/-! DEFINITION. State.lean: the state of the block (R20), the constant inputs (R30), and the model's own
fields: the events produced, the inputs to come, and the counter of the free values. -/

namespace Sys2Proof.Machine

/-- `ctl`, the controller's sequencer state (R21). -/
inductive Ctl where
  | ready | prim | initPa | initCfg | txSidle | txFifo | txStx | txWait | txStatus | wait | illegal
  deriving DecidableEq, Repr

/-- `frm`, the framer's phase (R22). -/
inductive Frm where
  | idle | sel | hdr | data | desel
  deriving DecidableEq, Repr

/-- `dir`, the kind of data phase (R24). -/
inductive Dir where
  | none | wr | rd
  deriving DecidableEq, Repr

/-- What `Op` (R110) or a wait (R152, R156) returns to the controller. -/
inductive Ret where
  | ok | busFault | timeout
  deriving DecidableEq, Repr

/-- The result codes of R90; 5, 6 and 7 are never produced. -/
inductive RspKind where
  | ok | txIncomplete | timeout | busFault | cmdIllegal
  deriving DecidableEq, Repr

/-- The extra data a response carries (R90). -/
inductive RspInfo where
  | none
  | txstat (value : BitVec 7)
  | data (bytes : List Byte)
  deriving DecidableEq, Repr

/-- The event alphabet (R10). -/
inductive Event where
  | csAssert
  | csDeassert
  | x (out received : Byte)
  | xf (out : Byte)
  | s (v : Level)
  | dly
  | rsp (code : RspKind) (info : RspInfo)
  deriving DecidableEq, Repr

/-- What the host does at one step of the block (R211). Reading the response changes nothing and is no
move. -/
inductive HostMove where
  | quiet
  | writeDbuf (index value : Byte)
  | issue (w : PortWord)
  | reset
  deriving DecidableEq, Repr

/-- The constant inputs (R30). -/
structure Straps where
  idleLevel : Level
  pollLimit : PollLimit
  policy    : Policy
  deriving DecidableEq, Repr

/-- `sync[1:0]`, the two flip-flops of the synchronizer (R35); the poller reads `ff1` (R150). -/
structure Sync where
  ff0 : Level
  ff1 : Level
  deriving DecidableEq, Repr

/-- A byte buffer: the listed bytes hold a value, an unlisted byte holds none (log entry 9).
Canonical: indices strictly rising. -/
abbrev Memory := List Host.Cell

/-- The state of the block. -/
structure State where
  /-- R21 -/
  ctl      : Ctl
  /-- R22 -/
  frm      : Frm
  /-- R23 -/
  cs       : Bool
  /-- R24 -/
  hdr      : Byte
  /-- R24 -/
  cnt      : Byte
  /-- R24 -/
  idx      : Byte
  /-- R24 -/
  dir      : Dir
  /-- R24 -/
  ferr     : Bool
  /-- R25 -/
  cOp      : BitVec 3
  /-- R25 -/
  cAddr    : Addr
  /-- R25 -/
  cLen     : Byte
  /-- R25 -/
  cLevel   : Level
  /-- R26 -/
  tgtLevel : Level
  /-- R26 -/
  pollCnt  : Nat
  /-- R27 -/
  txstat   : BitVec 7
  /-- R28 -/
  rspValid : Bool
  /-- R28 -/
  rspCode  : BitVec 3
  /-- R28 -/
  rspRlen  : Byte
  /-- `DBUF[0..254]`, R31 -/
  dbuf     : Memory
  /-- `RBUF[0..254]`, R32 -/
  rbuf     : Memory
  /-- `CFG[0..46]`, R33 -/
  cfg      : Vector Byte 47
  /-- `PA0`, the byte the loader replicates into `PA[0..7]`, R34, R131 -/
  pa0      : Byte
  /-- R35 -/
  sync     : Sync
  /-- R30 -/
  straps   : Straps
  /-- model's own: the value returned and not yet used (log entry 2) -/
  ret      : Option Ret
  /-- model's own: the events produced, oldest first (log entry 3) -/
  trace    : List Event
  /-- model's own input: the host's coming moves (log entry 5) -/
  hostIn   : List HostMove
  /-- model's own input: the BUS agent's coming answers (log entry 4) -/
  busIn    : List BusAnswer
  /-- model's own input: the PIN agent's coming answers (log entry 4) -/
  pinIn    : List Level
  /-- model's own: counter of the free values (log entry 4) -/
  draws    : Nat
  /-- model's own: small steps beyond the first that one step takes (log entry 1) -/
  pace     : Nat
  deriving DecidableEq, Repr

/-- Why a step stops. -/
inductive Fault where
  /-- Raised by `step` when the host, while the block is ready, writes DBUF index 255, which does not
  exist (R31, R50). Safe: the model stops where the spec gives no effect. -/
  | noSuchDbufByte
  deriving DecidableEq, Repr

/-- Why an instruction has no meaning. -/
inductive Refusal where
  /-- Raised by an arm of `exec` for an instruction not modelled; no arm raises it. Safe. -/
  | notModelled (mnemonic : String)
  deriving DecidableEq, Repr

/-- The block right after reset (R38, R200). Registers that R38 leaves unspecified hold the values of
log entry 8. -/
def State.reset : State where
  ctl      := .ready
  frm      := .idle
  cs       := false
  hdr      := 0
  cnt      := 0
  idx      := 0
  dir      := .none
  ferr     := false
  cOp      := 0
  cAddr    := 0
  cLen     := 0
  cLevel   := false
  tgtLevel := false
  pollCnt  := 0
  txstat   := 0
  rspValid := false
  rspCode  := 0
  rspRlen  := 0
  dbuf     := []
  rbuf     := []
  cfg      := Config.cfgTable
  pa0      := Config.pa0
  sync     := ⟨!Config.idleLevel, !Config.idleLevel⟩
  straps   := ⟨Config.idleLevel, Config.pollLimit, Config.completionPolicy⟩
  ret      := none
  trace    := []
  hostIn   := []
  busIn    := []
  pinIn    := []
  draws    := 0
  pace     := 0

end Sys2Proof.Machine
end

