-- ==== Sys2Proof/Machine/Flags.lean ====
section
/-! DEFINITION. Flags.lean: the conditions and codes the controller computes. -/

namespace Sys2Proof.Machine

/-- `ready` (R29): not a stored bit. -/
def State.ready (s : State) : Bool := s.ctl == .ready

/-- `busy` (R29). -/
def State.busy (s : State) : Bool := !s.ready

/-- The 3-bit code of a result (R90). -/
def RspKind.code : RspKind → BitVec 3
  | .ok => 0
  | .txIncomplete => 1
  | .timeout => 2
  | .busFault => 3
  | .cmdIllegal => 4

/-- `POLL_LIMIT` as the integer it is, if it is one (R153). -/
def pollBound : PollLimit → Option Nat
  | .unbounded => none
  | .bounded m => some (m + 1)

/-- The value an operation returns, from `ferr` (R110, phase `F_DESEL`). -/
def opResult (ferr : Bool) : Ret := if ferr then .busFault else .ok

/-- The masked status byte, `s & 0x7F = s[6:0]` (R136). -/
def maskStatus (status : Byte) : BitVec 7 := (status &&& Config.txStatusMask).setWidth 7

/-- The result of TX step 6: an equality with zero on 7 bits (R136). -/
def txResult (txstat : BitVec 7) : RspKind := if txstat = 0 then .ok else .txIncomplete

end Sys2Proof.Machine
end

