-- ==== Sys2Proof/Machine/Ops.lean ====
section
/-! DEFINITION. Ops.lean: the named operations the instructions share: the two buffers, the primitives to
the outside (R52, R53), the response (R28), the abort (R178) and reset (R200, R201). -/

namespace Sys2Proof.Machine

/-! ## Byte buffers -/

/-- The byte at an index, if one is held. -/
def Memory.read (m : Memory) (i : Nat) : Option Byte :=
  match m with
  | [] => none
  | (a, b) :: rest => if a = i then some b else Memory.read rest i

/-- Store a byte at an index, in index order. -/
def Memory.write (m : Memory) (i : Nat) (v : Byte) : Memory :=
  match m with
  | [] => [(i, v)]
  | (a, b) :: rest =>
    if i < a then (i, v) :: (a, b) :: rest
    else if i = a then (i, v) :: rest
    else (a, b) :: Memory.write rest i v

/-- Every listed index lies from `lo` to 254 and the indices rise strictly (R31, R32, R50). -/
def Memory.risesFrom (lo : Nat) (m : Memory) : Bool :=
  match m with
  | [] => true
  | (a, _) :: rest => decide (lo ≤ a) && decide (a < Config.bufLen) && Memory.risesFrom (a + 1) rest

/-- The canonical form of a buffer. -/
def Memory.wf (m : Memory) : Bool := Memory.risesFrom 0 m

/-- The bytes held at the indices below `n`, in index order (`RBUF[0..n-1]`, R113). -/
def Memory.firstBytes (m : Memory) (n : Nat) : List Byte :=
  (List.range n).filterMap (fun i => Memory.read m i)

/-- A byte of a buffer as the block reads it: a byte that holds no value is a free value (U9, U12;
log entry 9). -/
def readOrFree (m : Memory) (i : Nat) (s : State) : Byte × State :=
  match Memory.read m i with
  | some b => (b, s)
  | none => (Config.freeByte s.draws, { s with draws := s.draws + 1 })

/-! ## Primitives to the outside: one event each (R10) -/

/-- Produce an event. -/
def emit (e : Event) (s : State) : State := { s with trace := s.trace ++ [e] }

/-- `BusAssert()` (R52): always succeeds. -/
def busAssert (s : State) : State := emit .csAssert { s with cs := true }

/-- `BusDeassert()` (R52): always succeeds. -/
def busDeassert (s : State) : State := emit .csDeassert { s with cs := false }

/-- The BUS agent's next answer: the next one listed, else a free value (R5, R65; log entry 4). -/
def nextBusAnswer (s : State) : BusAnswer × State :=
  match s.busIn with
  | a :: rest => (a, { s with busIn := rest })
  | [] => (Config.freeBus s.draws, { s with draws := s.draws + 1 })

/-- The event of an exchange (R52). -/
def exchangeEvent (out : Byte) : BusAnswer → Event
  | .ok received => .x out received
  | .fault => .xf out

/-- `BusExchange(out)` (R52). -/
def busExchange (out : Byte) (s : State) : BusAnswer × State :=
  ((nextBusAnswer s).1, emit (exchangeEvent out (nextBusAnswer s).1) (nextBusAnswer s).2)

/-- The level in the synchronizer's second flip-flop at the moment the poller asks: the PIN agent's next
level, else a free value (R5, R151; log entry 4). The first flip-flop holds a level the spec does not
tell: a free value (log entry 18). -/
def nextPinLevel (s : State) : State :=
  match s.pinIn with
  | v :: rest =>
    { s with pinIn := rest, sync := ⟨Config.freeLevel s.draws, v⟩, draws := s.draws + 1 }
  | [] =>
    { s with
      sync := ⟨Config.freeLevel (s.draws + 1), Config.freeLevel s.draws⟩
      draws := s.draws + 2 }

/-- `ReadPin()` (R53, R150): the level of the second flip-flop. -/
def readPin (s : State) : Level × State :=
  ((nextPinLevel s).sync.ff1, emit (.s (nextPinLevel s).sync.ff1) (nextPinLevel s))

/-! ## The end of a command -/

/-- `respond` (R28, R90): post the response, event `Rsp`, and go back to `C_READY`. DESIGN CHOICE: RBUF keeps
its bytes, also those at `rlen` and above, which R32 and U12 leave unspecified (log entry 25). -/
def respond (kind : RspKind) (rlen : Byte) (info : RspInfo) (s : State) : State :=
  emit (.rsp kind info)
    { s with
      ret := none, ctl := .ready, rspValid := true, rspCode := RspKind.code kind, rspRlen := rlen }

/-- `abort kind` (R178), the block's only trap entry: the response with no data, and after it RBUF holds
no value and `txstat` is a free value (R179, R27; log entry 10). -/
def abort (kind : RspKind) (s : State) : State :=
  respond kind 0 .none
    { s with rbuf := [], txstat := Config.freeTxstat s.draws, draws := s.draws + 1 }

/-! ## Reset -/

/-- The reset input (R200, R201): an open chip-select window is closed, a command in progress ends with
no response, and every element has its value of R38. The constants and the straps keep theirs (R30,
R33, R38), and so do the model's own inputs and record (log entry 19). -/
def doReset (s : State) : State :=
  { State.reset with
    cfg := s.cfg
    pa0 := s.pa0
    straps := s.straps
    sync := ⟨!s.straps.idleLevel, !s.straps.idleLevel⟩
    trace := if s.cs then s.trace ++ [.csDeassert] else s.trace
    hostIn := s.hostIn
    busIn := s.busIn
    pinIn := s.pinIn
    draws := s.draws
    pace := s.pace }

end Sys2Proof.Machine
end

