-- ==== Sys2Proof/Machine/Operands.lean ====
section
/-! DEFINITION. Operands.lean: the operands of a bus operation: address, flag, kind, length and the
source of the bytes it sends. -/

namespace Sys2Proof.Machine

/-- The arguments of `Op(a, f, kind, n, src)` (R110) but for `src`. -/
structure OpArgs where
  addr : Addr
  flag : Byte
  kind : Dir
  len  : Byte
  deriving DecidableEq, Repr

/-- `STROBE(address)` (R111). -/
def strobeArgs (addr : Addr) : OpArgs := ⟨addr, Config.flagStrobe, .none, 0⟩

/-- `WBURST(address, data)` with `|data| = len` (R112). -/
def wburstArgs (addr : Addr) (len : Byte) : OpArgs := ⟨addr, Config.writeBurstFlag, .wr, len⟩

/-- `RBURST(address, length)` (R113). -/
def rburstArgs (addr : Addr) (len : Byte) : OpArgs := ⟨addr, Config.readBurstFlag, .rd, len⟩

/-- The operation of a host-issued primitive, from the latches (R116). Another code never is in
`C_PRIM` (log entry 23). -/
def primArgs (s : State) : Option OpArgs :=
  if s.cOp = 0b000#3 then some (strobeArgs s.cAddr)
  else if s.cOp = 0b001#3 then some (wburstArgs s.cAddr s.cLen)
  else if s.cOp = 0b011#3 then some (rburstArgs s.cAddr s.cLen)
  else none

/-- The operation the controller's state runs in the framer (R116, R130, R134); none where it runs
none. -/
def opArgs (s : State) : Option OpArgs :=
  match s.ctl with
  | .ready => none
  | .prim => primArgs s
  | .initPa => some (wburstArgs Config.powerTableAddress Config.paLen)
  | .initCfg => some (wburstArgs Config.configBase Config.cfgLen)
  | .txSidle => some (strobeArgs Config.idleAddress)
  | .txFifo => some (wburstArgs Config.fifoTxAddress s.cLen)
  | .txStx => some (strobeArgs Config.txAddress)
  | .txWait => none
  | .txStatus => some (rburstArgs Config.txStatusAddress 1)
  | .wait => none
  | .illegal => none

/-- An entry of CFG; past its end, which no operation reaches, a free value (R132; log entry 23). -/
def cfgByte (i : Nat) (s : State) : Byte × State :=
  match s.cfg[i]? with
  | some b => (b, s)
  | none => (Config.freeByte s.draws, { s with draws := s.draws + 1 })

/-- `src[idx]`: PA0 for the power table (R131), CFG for the configuration table (R132), DBUF for a host
WBURST and for TX (R116, R134). -/
def srcByte (s : State) : Byte × State :=
  match s.ctl with
  | .initPa => (s.pa0, s)
  | .initCfg => cfgByte s.idx.toNat s
  | .prim => readOrFree s.dbuf s.idx.toNat s
  | .txFifo => readOrFree s.dbuf s.idx.toNat s
  | .ready => readOrFree s.dbuf s.idx.toNat s
  | .txSidle => readOrFree s.dbuf s.idx.toNat s
  | .txStx => readOrFree s.dbuf s.idx.toNat s
  | .txWait => readOrFree s.dbuf s.idx.toNat s
  | .txStatus => readOrFree s.dbuf s.idx.toNat s
  | .wait => readOrFree s.dbuf s.idx.toNat s
  | .illegal => readOrFree s.dbuf s.idx.toNat s

/-- The byte sent in a data-phase exchange: `(dir = WR) ? src[idx] : DUMMY` (R110, R85). -/
def outByte (s : State) : Byte × State :=
  match s.dir with
  | .wr => srcByte s
  | .rd => (Config.dummy, s)
  | .none => (Config.dummy, s)

end Sys2Proof.Machine
end

