-- ==== Sys2Proof/Machine/Framer.lean ====
section
/-! DEFINITION. Framer.lean: the framer, one small step for each row of R110's table, and the same
operation as the procedure R110 gives first (R6: the two give the same event sequence). -/

namespace Sys2Proof.Machine

/-- `F_IDLE` to `F_SEL`: load the datapath registers (R24, R110); no event. -/
def loadOp (o : OpArgs) (s : State) : State :=
  { s with
    hdr := frame (addrOperand o.addr) o.flag, cnt := o.len, idx := 0, dir := o.kind, ferr := false
    frm := .sel }

/-- `F_SEL`: assert chip-select. -/
def frmSel (s : State) : State := { busAssert s with frm := .hdr }

/-- The state after the header's exchange, by the answer; the received byte is dropped. -/
def afterHdr (a : BusAnswer) (s : State) : State :=
  match a with
  | .ok _ => { s with frm := if s.cnt = 0 then .desel else .data }
  | .fault => { s with ferr := true, frm := .desel }

/-- `F_HDR`: exchange the header byte. -/
def frmHdr (s : State) : State := afterHdr (busExchange s.hdr s).1 (busExchange s.hdr s).2

/-- Keep the byte received in a read's data phase; drop it otherwise (R110, R64). -/
def storeReceived (received : Byte) (s : State) : State :=
  match s.dir with
  | .rd => { s with rbuf := Memory.write s.rbuf s.idx.toNat received }
  | .wr => s
  | .none => s

/-- The state after a data byte's exchange, by the answer. -/
def afterData (a : BusAnswer) (s : State) : State :=
  match a with
  | .ok received =>
    { storeReceived received s with
      idx := s.idx + 1, cnt := s.cnt - 1, frm := if s.cnt - 1 = 0 then .desel else .data }
  | .fault => { s with ferr := true, frm := .desel }

/-- `F_DATA`: exchange one data byte. -/
def frmData (s : State) : State :=
  afterData (busExchange (outByte s).1 (outByte s).2).1 (busExchange (outByte s).1 (outByte s).2).2

/-- `F_DESEL`: deassert chip-select and return the operation's outcome. -/
def frmDesel (s : State) : State :=
  { busDeassert s with frm := .idle, ret := some (opResult s.ferr) }

/-! ## The operation as a procedure (R110) -/

/-- `while ferr = 0 and cnt > 0`, run at most `n` times. -/
def dataLoop : Nat → State → State
  | 0, s => s
  | n + 1, s => if s.ferr = false ∧ s.cnt ≠ 0 then dataLoop n (frmData s) else s

/-- The body of `Op` between its loads and its return. -/
def opWindow (s : State) : State :=
  frmDesel (dataLoop s.cnt.toNat (frmHdr (frmSel s)))

/-- `Op(a, f, kind, n, src)` as one procedure. -/
def opProcedure (o : OpArgs) (s : State) : State := opWindow (loadOp o s)

end Sys2Proof.Machine
end

