-- ==== Sys2Proof/Machine/Poller.lean ====
section
/-! DEFINITION. Poller.lean: the wait loop, one small step for each sample (R152), and the fixed delay
(R156). -/

namespace Sys2Proof.Machine

/-- A wait starts: load the poller's registers (R26, R152). -/
def startWait (level : Level) (s : State) : State := { s with tgtLevel := level, pollCnt := 0 }

/-- A mismatching sample: count it toward the bound, if there is one, and return `Timeout` at the bound
(R152, R153). -/
def countMismatch (s : State) : State :=
  match pollBound s.straps.pollLimit with
  | none => s
  | some n =>
    { s with pollCnt := s.pollCnt + 1, ret := if s.pollCnt + 1 = n then some .timeout else none }

/-- Compare, then count (R152): a match returns `Ok`, also on the last sample allowed (R153). -/
def afterSample (v : Level) (s : State) : State :=
  if v = s.tgtLevel then { s with ret := some .ok } else countMismatch s

/-- One turn of `WaitLoop` (R152). -/
def pollSample (s : State) : State := afterSample (readPin s).1 (readPin s).2

/-- `FixedDelay()` (R156): the one event `Dly`, no sample, returns `Ok`. -/
def fixedDelay (s : State) : State := emit .dly { s with ret := some .ok }

/-- One small step of `CompletionWait()`, by the strap (R155). -/
def completionWait (s : State) : State :=
  match s.straps.policy with
  | .signalPoll => pollSample s
  | .fixedDelay => fixedDelay s

/-- Entering `C_TX_WAIT` (R134 step 4): a polled wait loads the poller's registers, a fixed delay does
not (R155, R156). -/
def enterTxWait (s : State) : State :=
  match s.straps.policy with
  | .signalPoll => startWait s.straps.idleLevel { s with ctl := .txWait }
  | .fixedDelay => { s with ctl := .txWait }

end Sys2Proof.Machine
end

