-- ==== Sys2Proof/Machine/Controller.lean ====
section
/-! DEFINITION. Controller.lean: what the controller does with a returned value, and the block's small
step: at most one event (R6, R21). -/

namespace Sys2Proof.Machine

/-- A host-issued primitive has returned `Ok` (R116). -/
def primDone (s : State) : State :=
  if s.cOp = 0b011#3 then
    respond .ok s.cLen (.data (Memory.firstBytes s.rbuf s.cLen.toNat)) s
  else respond .ok 0 .none s

/-- TX steps 5 and 6, the status byte in `RBUF[0]` (R134, R136, R27). -/
def txJudge (status : Byte) (s : State) : State :=
  respond (txResult (maskStatus status)) 1 (.txstat (maskStatus status))
    { s with txstat := maskStatus status }

/-- TX step 5 has returned `Ok`. -/
def txStatusDone (s : State) : State :=
  txJudge (readOrFree s.rbuf 0 s).1 (readOrFree s.rbuf 0 s).2

/-- The sub-step of the controller's state has returned `Ok`: the next state of the sequence, or the
response (R21, R116, R130, R134, R154). `C_READY` and `C_ILLEGAL` run no sub-step. -/
def afterOk (s : State) : State :=
  match s.ctl with
  | .ready => s
  | .prim => primDone s
  | .initPa => { s with ctl := .initCfg }
  | .initCfg => respond .ok 0 .none s
  | .txSidle => { s with ctl := .txFifo }
  | .txFifo => { s with ctl := .txStx }
  | .txStx => enterTxWait s
  | .txWait => { s with ctl := .txStatus }
  | .txStatus => txStatusDone s
  | .wait => respond .ok 0 .none s
  | .illegal => s

/-- The controller takes the returned value; an error ends the command (R178). -/
def onReturn (r : Ret) (s : State) : State :=
  match r with
  | .ok => afterOk { s with ret := none }
  | .busFault => abort .busFault { s with ret := none }
  | .timeout => abort .timeout { s with ret := none }

/-- The framer is idle and nothing has been returned: the sub-step of the controller's state starts, or
takes its next sample (R110, R152); `C_ILLEGAL` is answered at once (R21, R89). -/
def ctlIdle (s : State) : State :=
  match s.ctl with
  | .wait => pollSample s
  | .txWait => completionWait s
  | .illegal => respond .cmdIllegal 0 .none s
  | .ready | .prim | .initPa | .initCfg | .txSidle | .txFifo | .txStx | .txStatus =>
    match opArgs s with
    | some o => loadOp o s
    | none => s

/-- The block's small step: at most one event (R6). In `C_READY` nothing happens (R38). -/
def tick (s : State) : State :=
  match s.ret with
  | some r => onReturn r s
  | none =>
    match s.frm with
    | .idle => ctlIdle s
    | .sel => frmSel s
    | .hdr => frmHdr s
    | .data => frmData s
    | .desel => frmDesel s

/-- `n` small steps. -/
def advance : Nat → State → State
  | 0, s => s
  | n + 1, s => advance n (tick s)

/-- The small steps of one step of the model in which no command is accepted (R6; log entry 1). -/
def proceed (s : State) : State := advance (s.pace + 1) s

/-- Acceptance (R29): the code is latched, the response withdrawn (R28), the framer idle, and the
controller leaves `C_READY`. The operands are latched by the caller (R25). -/
def accept (op : BitVec 3) (entry : Ctl) (s : State) : State :=
  { s with cOp := op, rspValid := false, frm := .idle, ret := none, ctl := entry }

/-- A command: while the block is busy the port stalls and nothing happens (R29; log entry 16); else
the accepted state runs on (R6). -/
def command (accepted s : State) : Host.Outcome State Fault Refusal :=
  if s.ready then .next (advance accepted.pace accepted) else .next s

end Sys2Proof.Machine
end

