-- ==== Sys2Proof/Machine/Actions.lean ====
section
/-! DEFINITION. Actions.lean: INIT, TX and WAIT (R130, R134, R154). -/

namespace Sys2Proof.Machine

/-- INIT accepted. -/
def acceptInit (s : State) : State := accept 0b100 .initPa s

/-- TX accepted. -/
def acceptTx (len : Byte) (s : State) : State := { accept 0b101 .txSidle s with cLen := len }

/-- WAIT accepted; its wait starts (R26, R154). -/
def acceptWait (level : Level) (s : State) : State :=
  startWait level { accept 0b110 .wait s with cLevel := level }

/-- INIT, R130. -/
def execInit (s : State) : Host.Outcome State Fault Refusal := command (acceptInit s) s

/-- TX, R134. -/
def execTx (len : Byte) (s : State) : Host.Outcome State Fault Refusal := command (acceptTx len s) s

/-- WAIT, R154. -/
def execWait (level : Level) (s : State) : Host.Outcome State Fault Refusal :=
  command (acceptWait level s) s

end Sys2Proof.Machine
end

