-- ==== Sys2Proof/Machine/Primitives.lean ====
section
/-! DEFINITION. Primitives.lean: STROBE, WBURST and RBURST as host commands (R111 to R113, R116), their
aliases (R92) and the reserved header mode (R86). Each meaning latches the operands its command uses
(R25); the ignored ones stay as the port presented them (log entry 15). -/

namespace Sys2Proof.Machine

/-- STROBE accepted. -/
def acceptStrobe (addr : Addr) (s : State) : State :=
  { accept 0b000 .prim s with cAddr := addr }

/-- WBURST accepted. -/
def acceptWburst (addr : Addr) (len : Byte) (s : State) : State :=
  { accept 0b001 .prim s with cAddr := addr, cLen := len }

/-- RBURST accepted. -/
def acceptRburst (addr : Addr) (len : Byte) (s : State) : State :=
  { accept 0b011 .prim s with cAddr := addr, cLen := len }

/-- STROBE, R111. -/
def execStrobe (addr : Byte) (s : State) : Host.Outcome State Fault Refusal :=
  command (acceptStrobe (low6 addr) s) s

/-- WBURST, R112. -/
def execWburst (addr len : Byte) (s : State) : Host.Outcome State Fault Refusal :=
  command (acceptWburst (low6 addr) len s) s

/-- RBURST, R113. -/
def execRburst (addr len : Byte) (s : State) : Host.Outcome State Fault Refusal :=
  command (acceptRburst (low6 addr) len s) s

/-- SIDLE is `STROBE 0x36`, R92. -/
def execSidle (s : State) : Host.Outcome State Fault Refusal :=
  command (acceptStrobe Config.idleAddress s) s

/-- STX is `STROBE 0x35`, R92. -/
def execStx (s : State) : Host.Outcome State Fault Refusal :=
  command (acceptStrobe Config.txAddress s) s

/-- WR_PATABLE is `WBURST 0x3E, d`, R92. -/
def execWrPatable (len : Byte) (s : State) : Host.Outcome State Fault Refusal :=
  command (acceptWburst Config.powerTableAddress len s) s

/-- WR_CONFIG is `WBURST 0x00, d`, R92. -/
def execWrConfig (len : Byte) (s : State) : Host.Outcome State Fault Refusal :=
  command (acceptWburst Config.configBase len s) s

/-- WR_TXFIFO is `WBURST 0x3F, d`, R92. -/
def execWrTxfifo (len : Byte) (s : State) : Host.Outcome State Fault Refusal :=
  command (acceptWburst Config.fifoTxAddress len s) s

/-- RD_TXSTATUS is `RBURST 0x3A, 1`, R92: the byte read is not masked (log entry 24). -/
def execRdTxstatus (s : State) : Host.Outcome State Fault Refusal :=
  command (acceptRburst Config.txStatusAddress 1 s) s

end Sys2Proof.Machine
end

