-- ==== Sys2Proof/Machine/Reserved.lean ====
section
/-! DEFINITION. Reserved.lean: the reserved command codes (R89, R174) and the reserved header mode
(R86). -/

namespace Sys2Proof.Machine

/-- A reserved code accepted: like any other command, but for `C_ILLEGAL` (R89). -/
def acceptReserved (op : BitVec 3) (s : State) : State := accept op .illegal s

/-- Command code `0b010`, R89. -/
def execCmdReserved010 (s : State) : Host.Outcome State Fault Refusal :=
  command (acceptReserved 0b010 s) s

/-- Command code `0b111`, R89. -/
def execCmdReserved111 (s : State) : Host.Outcome State Fault Refusal :=
  command (acceptReserved 0b111 s) s

/-- Header mode `0b10`, R86: the block never produces such a header. The record that names it has the command
code `0b010` (R88, U10), and the answer `CMD_ILLEGAL` is that code's (R89): no header is examined, and there
is no illegal-header trap (R86 c; log entry 12). -/
def execHdrReserved (addr : Byte) (s : State) : Host.Outcome State Fault Refusal :=
  command { acceptReserved 0b010 s with cAddr := low6 addr } s

end Sys2Proof.Machine
end

