-- ==== Sys2Proof/Machine/Dispatch.lean ====
section
/-! DEFINITION. Dispatch.lean: one arm for each instruction. -/

namespace Sys2Proof.Machine

def exec (i : Instr) (s : State) : Host.Outcome State Fault Refusal :=
  match i with
  | .strobe addr => Sys2Proof.Machine.execStrobe addr s
  | .wburst addr len => Sys2Proof.Machine.execWburst addr len s
  | .rburst addr len => Sys2Proof.Machine.execRburst addr len s
  | .hdrReserved addr => Sys2Proof.Machine.execHdrReserved addr s
  | .sidle => Sys2Proof.Machine.execSidle s
  | .stx => Sys2Proof.Machine.execStx s
  | .wrPatable len => Sys2Proof.Machine.execWrPatable len s
  | .wrConfig len => Sys2Proof.Machine.execWrConfig len s
  | .wrTxfifo len => Sys2Proof.Machine.execWrTxfifo len s
  | .rdTxstatus => Sys2Proof.Machine.execRdTxstatus s
  | .init => Sys2Proof.Machine.execInit s
  | .tx len => Sys2Proof.Machine.execTx len s
  | .wait level => Sys2Proof.Machine.execWait level s
  | .cmdReserved010 => Sys2Proof.Machine.execCmdReserved010 s
  | .cmdReserved111 => Sys2Proof.Machine.execCmdReserved111 s

end Sys2Proof.Machine
end

