-- ==== Sys2Proof/Machine/HostPort.lean ====
section
/-! DEFINITION. HostPort.lean: the host's side of the block (R211): what it writes, what the port
latches, and what it may read. -/

namespace Sys2Proof.Machine

/-- The port's record copied to the latches at acceptance, whole (R25). -/
def latchRecord (w : PortWord) (s : State) : State :=
  { s with cOp := w.opField, cAddr := w.addrField, cLen := w.lenField, cLevel := w.levelField }

/-- The host's next move has been made. -/
def takeMove (s : State) : State := { s with hostIn := s.hostIn.tail }

/-- A host write to DBUF: while busy it is ignored and the block goes on (R31); while ready it is the
whole step. Index 255 does not exist (R31, R50; log entry 17). -/
def hostWrite (index value : Byte) (s : State) : Host.Outcome State Fault Refusal :=
  if s.busy then .next (proceed s)
  else if index.toNat < Config.bufLen then
    .next { s with dbuf := Memory.write s.dbuf index.toNat value }
  else .fault .noSuchDbufByte

/-- Reading `rsp_code` and `rsp_rlen`: only while ready with a response posted (R211). -/
def hostReadRsp (s : State) : Option (BitVec 3 × Byte) :=
  if s.ready && s.rspValid then some (s.rspCode, s.rspRlen) else none

/-- Reading RBUF: only its valid part, `0 .. rsp_rlen - 1` (R32, R211, U12). -/
def hostReadRbuf (i : Nat) (s : State) : Option Byte :=
  if s.ready && s.rspValid && decide (i < s.rspRlen.toNat) then Memory.read s.rbuf i else none

/-- Reading `txstat`: only after a TX that reached step 6 (R27, R211, U8). -/
def hostReadTxstat (s : State) : Option (BitVec 7) :=
  if s.ready && s.rspValid && s.cOp == 0b101#3
      && (s.rspCode == RspKind.code .ok || s.rspCode == RspKind.code .txIncomplete)
  then some s.txstat else none

/-- The host's next move is `issue w` and the block is ready for it: what a step of the model takes its
next instruction from (log entry 21). -/
def offerWord (w : PortWord) (s : State) : State :=
  { s with
    ctl := .ready, frm := .idle, cs := false, ret := none, hostIn := .issue w :: s.hostIn }

end Sys2Proof.Machine
end

