-- ==== Sys2Proof/Machine/Step.lean ====
section
/-! DEFINITION. Step.lean: one step of the machine. The host makes its next move; where that move is no
accepted command, no effective write and no reset, the block goes on by itself. -/

namespace Sys2Proof.Machine

/-- A command on the port: accepted only while ready, else it stays on the port, stalled (R29). -/
def stepIssue (w : PortWord) (s : State) : Host.Outcome State Fault Refusal :=
  if s.ready then exec (decode w) (latchRecord w (takeMove s)) else .next (proceed s)

/-- One step: reset overrides everything (R177, R200). -/
def step (s : State) : Host.Outcome State Fault Refusal :=
  match s.hostIn with
  | [] => .next (proceed s)
  | .quiet :: _ => .next (proceed (takeMove s))
  | .writeDbuf index value :: _ => hostWrite index value (takeMove s)
  | .issue w :: _ => stepIssue w s
  | .reset :: _ => .next (doReset (takeMove s))

/-- The instruction of an opcode-table word on the command port, so that the very next step runs it. -/
def State.withFetchWord (s : State) (nbits w : Nat) : State :=
  match tableWord nbits w with
  | some word => offerWord word s
  | none => s

end Sys2Proof.Machine
end

