-- ==== Sys2Proof/Safety.lean ====
section
/-! DEFINITION. Safety.lean: what counts as a safe run, in the terms the statements use: the chip-select
window discipline of the events (R57, R114), the sequencers' tables (R21, R22, R110), the responses each
command may give (R170), and the invariant of the block. -/

namespace Sys2Proof.Machine

/-! ## Chip-select windows -/

/-- Where an event sequence stands: outside a window, in a window with no exchange yet, after a good
exchange, after a faulted one. -/
inductive Window where
  | outside | opened | inside | faulted
  deriving DecidableEq, Repr

/-- The events allowed at each point (R57, R114, R115): a window holds exchanges only, a fault is the
last of them, samples and responses lie outside. A window with no exchange is left by reset alone
(R201). -/
def Window.next : Window → Event → Option Window
  | .outside, .csAssert => some .opened
  | .outside, .s _ => some .outside
  | .outside, .dly => some .outside
  | .outside, .rsp _ _ => some .outside
  | .opened, .x _ _ => some .inside
  | .opened, .xf _ => some .faulted
  | .opened, .csDeassert => some .outside
  | .inside, .x _ _ => some .inside
  | .inside, .xf _ => some .faulted
  | .inside, .csDeassert => some .outside
  | .faulted, .csDeassert => some .outside
  | _, _ => none

/-- A whole event sequence; none if some event is not allowed where it stands. -/
def Window.run (w : Window) : List Event → Option Window
  | [] => some w
  | e :: es => (Window.next w e).bind (fun w' => Window.run w' es)

/-- Where the framer's phase says the events stand. -/
def windowOf (s : State) : Window :=
  match s.frm with
  | .idle => .outside
  | .sel => .outside
  | .hdr => .opened
  | .data => .inside
  | .desel => if s.ferr then .faulted else .inside

/-- The first byte of each window, in order: the header bytes on the bus (R84). `fresh` says that no
byte of the open window has been exchanged. -/
def headersFrom (fresh : Bool) : List Event → List Byte
  | [] => []
  | .csAssert :: es => headersFrom true es
  | .csDeassert :: es => headersFrom false es
  | .x out _ :: es => if fresh then out :: headersFrom false es else headersFrom false es
  | .xf out :: es => if fresh then out :: headersFrom false es else headersFrom false es
  | .s _ :: es => headersFrom fresh es
  | .dly :: es => headersFrom fresh es
  | .rsp _ _ :: es => headersFrom fresh es

/-- The header bytes of an event sequence that begins outside a window. -/
def busHeaders (es : List Event) : List Byte := headersFrom false es

/-- An exchange, good or faulted. -/
def Event.isExchange : Event → Bool
  | .x _ _ => true
  | .xf _ => true
  | .csAssert => false
  | .csDeassert => false
  | .s _ => false
  | .dly => false
  | .rsp _ _ => false

/-- A faulted exchange. -/
def Event.isFault : Event → Bool
  | .xf _ => true
  | .x _ _ => false
  | .csAssert => false
  | .csDeassert => false
  | .s _ => false
  | .dly => false
  | .rsp _ _ => false

/-- A response. -/
def Event.isRsp : Event → Bool
  | .rsp _ _ => true
  | .x _ _ => false
  | .xf _ => false
  | .csAssert => false
  | .csDeassert => false
  | .s _ => false
  | .dly => false

/-- What an observer of the bus and the line sees: all but the responses (R92). -/
def busEvents (es : List Event) : List Event := es.filter (fun e => !e.isRsp)

/-- The events of a window in which every exchange is answered `ok`: the header, then the bytes `sent`
against the bytes `received` (R84, R111 to R113). -/
def okWindow (header firstIn : Byte) (sent received : List Byte) : List Event :=
  [.csAssert, .x header firstIn] ++ List.zipWith .x sent received ++ [.csDeassert]

/-- The events of a window whose header faults (R115). -/
def headerFaultWindow (header : Byte) : List Event := [.csAssert, .xf header, .csDeassert]

/-- The events of a window in which the data byte `bad` faults after the bytes `sent` (R115). -/
def dataFaultWindow (header firstIn : Byte) (sent received : List Byte) (bad : Byte) : List Event :=
  [.csAssert, .x header firstIn] ++ List.zipWith .x sent received ++ [.xf bad, .csDeassert]

/-- `ok` answers carrying the bytes given. -/
def oks (bytes : List Byte) : List BusAnswer := bytes.map .ok

/-- Samples of the levels given. -/
def samples (levels : List Level) : List Event := levels.map .s

/-- DBUF holds these bytes from index 0 on (R31). -/
def dbufHolds (s : State) (data : List Byte) : Prop :=
  ∀ i (h : i < data.length), Memory.read s.dbuf i = some data[i]

/-- Bytes stored one after another from an index on (R54, R113). -/
def Memory.writeFrom (m : Memory) (i : Nat) : List Byte → Memory
  | [] => m
  | b :: bs => Memory.writeFrom (Memory.write m i b) (i + 1) bs

/-! ## The sequencers -/

/-- The controller's states in which a bus operation runs (R22). -/
def Ctl.onBus : Ctl → Bool
  | .prim | .initPa | .initCfg | .txSidle | .txFifo | .txStx | .txStatus => true
  | .ready | .txWait | .wait | .illegal => false

/-- R21, the states a state may be left to other than by acceptance. -/
def Ctl.leftTo : Ctl → List Ctl
  | .ready => []
  | .prim => [.ready]
  | .initPa => [.initCfg, .ready]
  | .initCfg => [.ready]
  | .txSidle => [.txFifo, .ready]
  | .txFifo => [.txStx, .ready]
  | .txStx => [.txWait, .ready]
  | .txWait => [.txStatus, .ready]
  | .txStatus => [.ready]
  | .wait => [.ready]
  | .illegal => [.ready]

/-- R21, the state a command enters from `C_READY`. -/
def entryOf : Instr → Ctl
  | .strobe _ | .wburst _ _ | .rburst _ _ => .prim
  | .sidle | .stx | .wrPatable _ | .wrConfig _ | .wrTxfifo _ | .rdTxstatus => .prim
  | .init => .initPa
  | .tx _ => .txSidle
  | .wait _ => .wait
  | .hdrReserved _ | .cmdReserved010 | .cmdReserved111 => .illegal

/-- R22, R110: the phases that may follow a phase. -/
def Frm.leftTo : Frm → List Frm
  | .idle => [.sel]
  | .sel => [.hdr]
  | .hdr => [.data, .desel]
  | .data => [.data, .desel]
  | .desel => [.idle]

/-- The phases in which chip-select is asserted (R23, R110). -/
def Frm.selects : Frm → Bool
  | .idle => false
  | .sel => false
  | .hdr => true
  | .data => true
  | .desel => true

/-- The poller is taking samples (R152). -/
def polling (s : State) : Bool :=
  s.ret == none && (s.ctl == .wait || (s.ctl == .txWait && s.straps.policy == .signalPoll))

/-- Which results an instruction may answer with, under the straps (R170). -/
def mayAnswer (straps : Straps) : Instr → RspKind → Bool
  | .strobe _, k | .wburst _ _, k | .rburst _ _, k | .init, k => k == .ok || k == .busFault
  | .sidle, k | .stx, k | .wrPatable _, k | .wrConfig _, k | .wrTxfifo _, k | .rdTxstatus, k =>
    k == .ok || k == .busFault
  | .tx _, k =>
    k == .ok || k == .txIncomplete || k == .busFault ||
      (k == .timeout && straps.policy == .signalPoll && straps.pollLimit != .unbounded)
  | .wait _, k => k == .ok || (k == .timeout && straps.pollLimit != .unbounded)
  | .hdrReserved _, k | .cmdReserved010, k | .cmdReserved111, k => k == .cmdIllegal

/-- How many bytes of RBUF an instruction that ends well leaves valid (R28). -/
def readLength : Instr → Nat
  | .rburst _ len => len.toNat
  | .rdTxstatus | .tx _ => 1
  | .strobe _ | .wburst _ _ | .hdrReserved _ | .sidle | .stx | .wrPatable _ | .wrConfig _
  | .wrTxfifo _ | .init | .wait _ | .cmdReserved010 | .cmdReserved111 => 0

/-- How many bytes of RBUF are valid after an instruction answered with a result (R28). -/
def validLength (i : Instr) (k : RspKind) : Nat :=
  if k = .ok ∨ k = .txIncomplete then readLength i else 0

/-- The most small steps an instruction takes after its acceptance, where its wait is bounded by
`bound` samples: 5 and one for each data byte of a bus operation, one for each sample, one for each
value the controller takes. -/
def smallStepsOf (bound : Nat) : Instr → Nat
  | .strobe _ | .sidle | .stx => 5
  | .wburst _ len | .rburst _ len | .wrPatable len | .wrConfig len | .wrTxfifo len => len.toNat + 5
  | .rdTxstatus => 6
  | .init => 65
  | .tx len => len.toNat + bound + 22
  | .wait _ => bound + 1
  | .hdrReserved _ | .cmdReserved010 | .cmdReserved111 => 1

/-- The most samples an instruction's wait takes, if there is a most (R153, R155, R156): 0 where it waits
for nothing; a fixed delay counts as one. -/
def waitBound (straps : Straps) : Instr → Option Nat
  | .tx _ => if straps.policy = .fixedDelay then some 1 else pollBound straps.pollLimit
  | .wait _ => pollBound straps.pollLimit
  | .strobe _ | .wburst _ _ | .rburst _ _ | .hdrReserved _ | .sidle | .stx | .wrPatable _
  | .wrConfig _ | .wrTxfifo _ | .rdTxstatus | .init | .cmdReserved010 | .cmdReserved111 => some 0

/-- `poll_cnt` after `k` mismatching samples: it counts only toward a bound (R26). -/
def mismatchesCounted (limit : PollLimit) (k : Nat) : Nat :=
  match limit with
  | .unbounded => 0
  | .bounded _ => k

/-- The state after an abort, as far as R179 specifies it; RBUF and `txstat` are left open. -/
structure Aborted (kind : RspKind) (before after : State) : Prop where
  cs : after.cs = false
  frm : after.frm = .idle
  ctl : after.ctl = .ready
  rspValid : after.rspValid = true
  rspCode : after.rspCode = RspKind.code kind
  rspRlen : after.rspRlen = 0
  dbuf : after.dbuf = before.dbuf

/-- The framer's registers after an operation with this header and data phase whose exchange faulted after
`done` of its `len` data bytes (R24, R115). -/
structure FaultedAt (header : Byte) (kind : Dir) (len done : Nat) (after : State) : Prop where
  hdr : after.hdr = header
  idx : after.idx.toNat = done
  cnt : after.cnt.toNat + done = len
  dir : after.dir = kind
  ferr : after.ferr = true

/-! ## The invariant -/

/-- A returned value fits the sub-step that returned it: a fault comes from a bus operation, a timeout
from a wait (R170, R177). -/
def retFits : Ctl → Ret → Bool
  | c, .ok => c.onBus || c == .wait || c == .txWait
  | c, .busFault => c.onBus
  | c, .timeout => c == .wait || c == .txWait

/-- While an operation runs in the framer, the datapath registers are those of the operation the
controller's state asks for (R24, R110). -/
structure OpInv (s : State) (o : OpArgs) : Prop where
  /-- `hdr` holds `Frame(address, flag)` for the whole operation -/
  hdr : s.hdr = frame (addrOperand o.addr) o.flag
  /-- `idx + cnt` is constant -/
  sum : s.idx.toNat + s.cnt.toNat = o.len.toNat
  /-- the kind of data phase -/
  dir : s.dir = o.kind
  /-- the bytes received so far are in RBUF -/
  stored : s.dir = .rd → ∀ i < s.idx.toNat, (Memory.read s.rbuf i).isSome

/-- The invariant of the block. -/
structure State.Inv (s : State) : Prop where
  /-- the buffers are in canonical form and within 0 to 254 (R50) -/
  dbufWf : Memory.wf s.dbuf = true
  /-- the same of RBUF -/
  rbufWf : Memory.wf s.rbuf = true
  /-- `cs` follows the framer's phase (R23) -/
  csPhase : s.cs = Frm.selects s.frm
  /-- the events keep the window discipline and stand where the framer stands (R57, R114) -/
  windows : Window.run .outside s.trace = some (windowOf s)
  /-- in `C_READY` the framer is idle and nothing is in flight (R22, R29) -/
  idle : s.ctl = .ready → s.frm = .idle ∧ s.ret = none
  /-- the framer runs only in a bus state (R22), with the registers of its operation -/
  framer : s.frm ≠ .idle → s.ctl.onBus = true ∧ s.ret = none ∧ ∃ o, opArgs s = some o ∧ OpInv s o
  /-- `ferr` is clear until an exchange faults (R24) -/
  ferrClear : s.frm = .sel ∨ s.frm = .hdr ∨ s.frm = .data → s.ferr = false
  /-- a data byte is left in `F_DATA` (R110) -/
  dataLeft : s.frm = .data → s.cnt ≠ 0
  /-- a good operation exchanges all its data bytes (R110) -/
  allDone : s.frm = .desel → s.ferr = false → s.cnt = 0
  /-- a returned value fits the sub-step that returned it -/
  retLegal : ∀ r, s.ret = some r → retFits s.ctl r = true
  /-- after a good bus operation all its bytes are exchanged -/
  opDone : s.ret = some .ok → s.ctl.onBus = true → ∃ o, opArgs s = some o ∧ OpInv s o ∧ s.cnt = 0
  /-- `C_PRIM` runs one of the three primitives (R116) -/
  prim : s.ctl = .prim → s.cOp = 0b000#3 ∨ s.cOp = 0b001#3 ∨ s.cOp = 0b011#3
  /-- `poll_cnt` stays 0 without a bound and never exceeds the bound (R26) -/
  pollZero : s.straps.pollLimit = .unbounded → s.pollCnt = 0
  /-- the same with a bound -/
  pollMost : ∀ n, pollBound s.straps.pollLimit = some n → s.pollCnt ≤ n
  /-- while samples are taken the bound is not reached (R152) -/
  pollLeft : polling s = true → ∀ n, pollBound s.straps.pollLimit = some n → s.pollCnt < n
  /-- codes 5, 6 and 7 are never produced (R90) -/
  codes : s.rspCode.toNat ≤ 4
  /-- a response stands only while no command runs (R28, R29) -/
  response : s.rspValid = true → s.ctl = .ready
  /-- the valid bytes of RBUF are held (R28, R32) -/
  validBytes : s.rspValid = true → ∀ i < s.rspRlen.toNat, (Memory.read s.rbuf i).isSome

end Sys2Proof.Machine
end

