-- ==== Sys2Proof/Certificates/Slice0/Obligations.lean ====
section
/-! DEFINITION. Obligations.lean: the statements about the block. -/

open Sys2Proof Sys2Proof.Machine

/-! ## Encodings -/

/-- Decode and encode agree on every well-formed instruction (R80, R83, R88, R89). -/
def Obligations.DecodeUndoesEncode : Prop :=
  ∀ i : Instr, i.wf = true → decode (encode i) = i

/-- The instruction of a port word goes back to a word with the same command code, for a bus operation with
the same address, and for a burst with the same length (R88; the header form is the model's, log entry 11,
and so is the length 1 of every word of RD_TXSTATUS's header, log entry 26). -/
def Obligations.DecodedWordKeepsItsCode : Prop :=
  ∀ w : PortWord,
    (encode (decode w)).opField = w.opField ∧
    ((w.opField = 0b000#3 ∨ w.opField = 0b001#3 ∨ w.opField = 0b011#3) →
      (encode (decode w)).addrField = w.addrField) ∧
    ((w.opField = 0b001#3 ∨ w.opField = 0b011#3) → (encode (decode w)).lenField = w.lenField)

/-- Words written out from R83, R86, R88 and R89 decode to what they stand for. -/
def Obligations.WordsDecodeAsTheTableSays : Prop :=
  decode (.cmd3 0b000 0b110110 0 false) = .strobe 0x36 ∧
  decode (.cmd3 0b001 0b111111 4 false) = .wburst 0x3F 4 ∧
  decode (.cmd3 0b011 0b111010 1 false) = .rburst 0x3A 1 ∧
  decode (.cmd3 0b100 0 0 false) = .init ∧
  decode (.cmd3 0b101 0 255 false) = .tx 255 ∧
  decode (.cmd3 0b110 0 0 true) = .wait true ∧
  decode (.cmd3 0b010 0 0 false) = .cmdReserved010 ∧
  decode (.cmd3 0b111 0 0 false) = .cmdReserved111 ∧
  decode (.hdr8 0b00110110 0) = .sidle ∧
  decode (.hdr8 0b01111110 8) = .wrPatable 8 ∧
  decode (.hdr8 0b11111010 1) = .rdTxstatus ∧
  decode (.hdr8 0b10000000 0) = .hdrReserved 0

/-- R82: the framed byte, and its two fields, for every byte `a` and every flag of R81. -/
def Obligations.FrameMasksTheAddress : Prop :=
  ∀ a f : Byte, f = 0x00#8 ∨ f = 0x40#8 ∨ f = 0xC0#8 →
    frame a f = (a &&& 0x3F#8) ||| f ∧
    (frame a f).extractLsb' 6 2 = f.extractLsb' 6 2 ∧
    (frame a f).extractLsb' 0 6 = a.extractLsb' 0 6

/-- R86: (a) no bus operation the controller can ask for has a header with mode `0b10`, a byte from
`0x80` to `0xBF`; (b) every other byte is the header of some operation. -/
def Obligations.NoOperationHasAReservedHeader : Prop :=
  (∀ (s : State) (o : OpArgs), opArgs s = some o →
    headerMode (loadOp o s).hdr ≠ 0b10#2 ∧
      ¬ (0x80 ≤ (loadOp o s).hdr.toNat ∧ (loadOp o s).hdr.toNat ≤ 0xBF)) ∧
  ∀ h : Byte, h.toNat < 0x80 ∨ 0xC0 ≤ h.toNat →
    ∃ (s : State) (o : OpArgs), opArgs s = some o ∧ (loadOp o s).hdr = h

/-! ## Reset and the host's port -/

/-- R200, R201, R38: the reset input in any state. The window is closed if it was open, nothing else
happens on the bus, no response is given, the elements whose reset value the spec states have it, and
the block does nothing more by itself (the synchronizer's later levels are left open). -/
def Obligations.ResetInputResetsTheBlock : Prop :=
  ∀ (s : State) (moves : List HostMove), s.hostIn = .reset :: moves →
    ∃ t, step s = .next t ∧
      t.trace = s.trace ++ (if s.cs then [Event.csDeassert] else []) ∧
      t.ctl = .ready ∧ t.frm = .idle ∧ t.cs = false ∧ t.dir = .none ∧ t.ferr = false ∧
      t.pollCnt = 0 ∧ t.rspValid = false ∧ t.rspRlen = 0 ∧
      t.sync = ⟨!s.straps.idleLevel, !s.straps.idleLevel⟩ ∧
      t.cfg = s.cfg ∧ t.pa0 = s.pa0 ∧ t.straps = s.straps ∧ t.hostIn = moves ∧
      ∀ n, { advance n t with sync := t.sync } = t

/-- R38: the values the spec states for reset, in `State.reset`. -/
def Obligations.ResetStateHasTheSpecValues : Prop :=
  State.reset.ctl = .ready ∧ State.reset.frm = .idle ∧ State.reset.cs = false ∧
  State.reset.dir = .none ∧ State.reset.ferr = false ∧ State.reset.pollCnt = 0 ∧
  State.reset.rspValid = false ∧ State.reset.rspRlen = 0 ∧ State.reset.pa0 = 0xC0 ∧
  State.reset.straps.policy = .signalPoll ∧
  State.reset.sync = ⟨!State.reset.straps.idleLevel, !State.reset.straps.idleLevel⟩

/-- R38: with no command, the ready block does nothing, whatever its pace. That the synchronizer holds then
is the model's choice, log entry 18. -/
def Obligations.ReadyBlockWithoutCommandIsStill : Prop :=
  ∀ s : State, s.Inv → s.ctl = .ready → s.hostIn = [] → step s = .next s

/-- A step runs the decoded instruction: a ready block with a command on its port latches the whole
record and runs the instruction of the word (R25, R29). For a header word the record and its instruction
are the model's choice, log entries 11 and 26; so is that the step latches the ignored operands, log
entry 15. -/
def Obligations.StepRunsTheDecodedInstruction : Prop :=
  ∀ (s : State) (w : PortWord) (moves : List HostMove),
    s.ctl = .ready → s.hostIn = .issue w :: moves →
    step s =
      exec (decode w)
        { s with
          hostIn := moves
          cOp := w.opField, cAddr := w.addrField, cLen := w.lenField, cLevel := w.levelField }

/-- R86 (c): the block decodes no header. A word that names its record by a header byte (the model's form,
log entry 11) does, in every ready state, what the record itself does, whose code is the header's mode (R88),
whose address is the header's, and whose length is the word's, 1 for RD_TXSTATUS (log entry 26). Where
some operation has that header, the block then produces it; where none has (mode `0b10`), the record's
code is the reserved `0b010` (U10; log entry 12). -/
def Obligations.HeaderWordIsItsCommandRecord : Prop :=
  ∀ (s : State) (header len : Byte) (moves : List HostMove),
    s.ctl = .ready → s.hostIn = .issue (.hdr8 header len) :: moves →
    step s =
      step { s with
        hostIn := .issue (.cmd3 (0b0#1 ++ header.extractLsb' 6 2) (header.extractLsb' 0 6)
          (if header = 0xFA then 1 else len) false) :: moves } ∧
    (s.pace = 0 →
      ∃ t, step s = .next t ∧
        (header.extractLsb' 6 2 ≠ 0b10#2 →
          ∃ o, opArgs t = some o ∧ (loadOp o t).hdr = header) ∧
        (header.extractLsb' 6 2 = 0b10#2 → t.cOp = 0b010 ∧ t.ctl = .illegal ∧ opArgs t = none))

/-- R25, R29: an accepted command record stands in the latches when the step is over, whatever the pace;
at the finest pace acceptance is one step that clears `rsp_valid` and leaves `C_READY`; and a step at
any pace is that acceptance followed by the small steps of the pace (R6; log entry 1). -/
def Obligations.AcceptanceLatchesTheRecord : Prop :=
  ∀ (s : State) (op : BitVec 3) (addr : Addr) (len : Byte) (level : Level) (moves : List HostMove),
    s.ctl = .ready → s.hostIn = .issue (.cmd3 op addr len level) :: moves →
    ∃ t, step s = .next t ∧ t.cOp = op ∧ t.cAddr = addr ∧ t.cLen = len ∧ t.cLevel = level ∧
      t.hostIn = moves ∧
      ∃ a, step { s with pace := 0 } = .next a ∧ t = { advance s.pace a with pace := s.pace } ∧
        a.rspValid = false ∧ a.ctl ≠ .ready ∧ a.trace = s.trace ∧ a.dbuf = s.dbuf

/-- R29: while the block is busy a command stays on the port and no latch changes, while the block goes on by
its small steps (R6; log entries 1 and 16); and `exec` turns the command away with no effect. -/
def Obligations.BusyPortStalls : Prop :=
  ∀ (s : State) (w : PortWord) (moves : List HostMove),
    s.ctl ≠ .ready → s.hostIn = .issue w :: moves →
    (∃ t, step s = .next t ∧ t = advance (s.pace + 1) s ∧ t.hostIn = s.hostIn ∧ t.cOp = s.cOp ∧
      t.cAddr = s.cAddr ∧ t.cLen = s.cLen ∧ t.cLevel = s.cLevel ∧ t.dbuf = s.dbuf) ∧
    ∀ i : Instr, exec i s = .next s

/-- R31, R208: a host write to DBUF is one byte at its index while ready, and is ignored while busy: the
block goes on by its small steps (R6; log entries 1 and 5). That the synchronizer holds at an effective
write is the model's choice, log entry 18. -/
def Obligations.HostWritesDbufOnlyWhileReady : Prop :=
  ∀ (s : State) (index value : Byte) (moves : List HostMove),
    s.hostIn = .writeDbuf index value :: moves → index.toNat < 255 →
    ∃ t, step s = .next t ∧ t.hostIn = moves ∧
      (s.ctl = .ready →
        Memory.read t.dbuf index.toNat = some value ∧
        (∀ j, j ≠ index.toNat → Memory.read t.dbuf j = Memory.read s.dbuf j) ∧
        t = { s with hostIn := moves, dbuf := t.dbuf }) ∧
      (s.ctl ≠ .ready → t.dbuf = s.dbuf ∧ t = advance (s.pace + 1) { s with hostIn := moves })

/-- R6, R29, R31: where the host makes no move, or one that a busy block does not take, the block goes on by
itself: its next small step and those of the pace (log entries 1 and 5). Only the move is gone from the
list; a stalled command stays. -/
def Obligations.BlockGoesOnByItself : Prop :=
  ∀ s : State,
    (s.hostIn = [] → step s = .next (advance (s.pace + 1) s)) ∧
    (∀ moves, s.hostIn = .quiet :: moves →
      step s = .next (advance (s.pace + 1) { s with hostIn := moves })) ∧
    (s.ctl ≠ .ready →
      (∀ w moves, s.hostIn = .issue w :: moves → step s = .next (advance (s.pace + 1) s)) ∧
      ∀ index value moves, s.hostIn = .writeDbuf index value :: moves →
        step s = .next (advance (s.pace + 1) { s with hostIn := moves }))

/-- R6: the small-step and the big-step reading give the same states, and so the same events, at every pace
(log entry 1). An instruction is its acceptance, which is the whole of it at pace 0, and then as many
small steps as the pace; and one step, in which the host makes no move, lets the block go on, or has a command
accepted, is that many steps at pace 0 and one more. -/
def Obligations.PaceOnlyGroupsSmallSteps : Prop :=
  (∀ (i : Instr) (s : State), s.ctl = .ready →
    ∃ a, exec i { s with pace := 0 } = .next a ∧
      exec i s = .next { advance s.pace a with pace := s.pace }) ∧
  ∀ s : State,
    s.hostIn = [] ∨ s.hostIn = [.quiet] ∨ (s.ctl = .ready ∧ ∃ w, s.hostIn = [.issue w]) →
    ∃ t, step s = .next t ∧
      Host.Core.run Sys2Proof.core (s.pace + 1) { s with pace := 0 } = .next { t with pace := 0 }

/-- DBUF has no byte 255 (R31, R50): a ready block's write there stops with the model's fault (the
model's choice, log entry 17). -/
def Obligations.WriteBeyondDbufFaults : Prop :=
  ∀ (s : State) (value : Byte) (moves : List HostMove),
    s.ctl = .ready → s.hostIn = .writeDbuf 255 value :: moves →
    step s = .fault .noSuchDbufByte

/-- R30, R33, R34, R62: no step of the machine changes a strap or a constant table. -/
def Obligations.ConstantsNeverChange : Prop :=
  ∀ s t : State, step s = .next t → t.straps = s.straps ∧ t.cfg = s.cfg ∧ t.pa0 = s.pa0

/-- R31, R62: every byte of DBUF reads as before after any step that is neither an effective host write
to it nor a reset. -/
def Obligations.OnlyTheHostChangesDbuf : Prop :=
  ∀ s t : State, step s = .next t → (∀ moves, s.hostIn ≠ .reset :: moves) →
    ∀ j, (∀ index value moves, s.hostIn = .writeDbuf index value :: moves →
        s.ctl = .ready → index.toNat ≠ j) →
      Memory.read t.dbuf j = Memory.read s.dbuf j

/-! ## The sequencers -/

/-- R6, R10: a small step produces at most one event. -/
def Obligations.SmallStepProducesAtMostOneEvent : Prop :=
  ∀ s : State, ∃ es : List Event, (tick s).trace = s.trace ++ es ∧ es.length ≤ 1

/-- R21: `ctl` advances only as the table allows; the states of a sequence are left to `C_READY` early by
a fault or a timeout alone; and a command enters its own first state. That a bus operation asked for with
the reserved header mode enters `C_ILLEGAL` is the model's reading, log entry 12. -/
def Obligations.ControllerFollowsItsTable : Prop :=
  (∀ s : State, (tick s).ctl = s.ctl ∨ (tick s).ctl ∈ s.ctl.leftTo) ∧
  (∀ s : State, s.Inv → (tick s).ctl = .ready →
    (s.ctl = .initPa ∨ s.ctl = .txSidle ∨ s.ctl = .txFifo ∨ s.ctl = .txStx →
      s.ret = some .busFault) ∧
    (s.ctl = .txWait → s.ret = some .timeout)) ∧
  ∀ (i : Instr) (s : State), s.ctl = .ready → s.pace = 0 →
    ∃ t, exec i s = .next t ∧ t.ctl = entryOf i

/-- R22: `frm` advances only along the rows of R110's table, and runs only in a bus state. -/
def Obligations.FramerFollowsItsTable : Prop :=
  (∀ s : State, (tick s).frm = s.frm ∨ (tick s).frm ∈ s.frm.leftTo) ∧
  ∀ s : State, s.Inv → (tick s).frm ≠ .idle → (tick s).ctl.onBus = true

/-- R53, R57, R152: a sample is taken only by the poller, with chip-select deasserted and the framer
idle. -/
def Obligations.SamplesOnlyOutsideWindows : Prop :=
  ∀ (s : State) (v : Level), s.Inv → (tick s).trace = s.trace ++ [.s v] →
    s.cs = false ∧ s.frm = .idle ∧ (s.ctl = .wait ∨ s.ctl = .txWait)

/-- R27: apart from an abort, which leaves `txstat` unspecified (log entry 10), `txstat` changes in one
place, to `RBUF[0] & 0x7F`, and in a state of the invariant RBUF holds that byte. -/
def Obligations.TxstatIsWrittenInOnePlace : Prop :=
  ∀ s : State, s.ret ≠ some .busFault → s.ret ≠ some .timeout →
    (tick s).txstat = s.txstat ∨
      (s.ctl = .txStatus ∧ s.ret = some .ok ∧
        (∀ b, Memory.read s.rbuf 0 = some b → (tick s).txstat = (b &&& 0x7F#8).setWidth 7) ∧
        (s.Inv → ∃ b, Memory.read s.rbuf 0 = some b))

/-- R110, D7: the byte received with a header, or in the data phase of a write, influences nothing but
the record of events. -/
def Obligations.DroppedBytesInfluenceNothing : Prop :=
  ∀ (s : State) (a b : Byte) (answers : List BusAnswer), s.ret = none →
    s.frm = .hdr ∨ (s.frm = .data ∧ s.dir ≠ .rd) →
    { tick { s with busIn := .ok a :: answers } with trace := [] } =
      { tick { s with busIn := .ok b :: answers } with trace := [] }

/-- R110, R6: whatever the bus answers, the framer's small steps run exactly the procedure `Op`. -/
def Obligations.FramerRunsTheOpProcedure : Prop :=
  ∀ (s : State) (o : OpArgs), opArgs s = some o → s.frm = .idle → s.ret = none →
    ∃ k, k ≤ o.len.toNat + 4 ∧ advance k s = opProcedure o s

/-- R114: the chip-select window of every operation, on every path, with what it returns (R115); and
chip-select is 0 whenever the framer is idle. -/
def Obligations.OperationIsOneWindow : Prop :=
  (∀ (s : State) (o : OpArgs), opArgs s = some o → s.frm = .idle → s.ret = none →
    ∃ (k : Nat) (inner : List Event), k ≤ o.len.toNat + 4 ∧
      (advance k s).trace = s.trace ++ [.csAssert] ++ inner ++ [.csDeassert] ∧
      inner ≠ [] ∧ (∀ e ∈ inner, e.isExchange = true) ∧
      (∀ e ∈ inner.dropLast, e.isFault = false) ∧
      (advance k s).cs = false ∧ (advance k s).frm = .idle ∧
      (((advance k s).ret = some .ok ∧ inner.length = o.len.toNat + 1 ∧
          ∀ e ∈ inner, e.isFault = false) ∨
        ((advance k s).ret = some .busFault ∧ inner.length ≤ o.len.toNat + 1 ∧
          ∃ out, inner.getLast? = some (.xf out)))) ∧
  ∀ s t : State, s.Inv → step s = .next t → t.frm = .idle → t.cs = false

/-- R178, R179: a bus fault or a timeout ends the command: the response with no data, back in `C_READY`,
and nothing after it. Only RBUF, `txstat` and the hidden synchronizer are left open. -/
def Obligations.AbortEndsTheCommand : Prop :=
  ∀ (s : State) (kind : RspKind), s.Inv →
    (s.ret = some .busFault ∧ kind = .busFault) ∨ (s.ret = some .timeout ∧ kind = .timeout) →
    Aborted kind s (tick s) ∧
    tick s =
      { s with
        ret := none, ctl := .ready
        rspValid := true, rspCode := RspKind.code kind, rspRlen := 0
        rbuf := (tick s).rbuf, txstat := (tick s).txstat, sync := (tick s).sync
        draws := (tick s).draws
        trace := s.trace ++ [.rsp kind .none] } ∧
    ∀ n, { advance n (tick s) with sync := (tick s).sync } = tick s

/-! ## The three operations as commands, and their aliases

A statement of a command's result gives the whole next state but for what the rules leave open: the
latches of the operands the command ignores, the synchronizer, and, where the rule does not say that RBUF
is not written, the bytes of RBUF that are not valid. What the model does with those is in the frames
below, and is its own choice (log entries 15, 18 and 25). -/

/-- A strobe of `a`, its exchange answered `ok`: the next state, the ignored latches and the synchronizer
left open. -/
def Sys2Proof.Machine.StrobeRuns (i : Instr) (a : Addr) : Prop :=
  ∀ (s : State) (r : Byte) (answers : List BusAnswer),
    s.ctl = .ready → 5 ≤ s.pace → s.busIn = .ok r :: answers →
    ∃ len level sy, exec i s = .next
      { s with
        ctl := .ready, frm := .idle, cs := false, ret := none
        hdr := frame (addrOperand a) 0x00, cnt := 0, idx := 0, dir := .none, ferr := false
        cOp := 0b000, cAddr := a, cLen := len, cLevel := level, sync := sy
        rspValid := true, rspCode := 0, rspRlen := 0
        busIn := answers
        trace := s.trace ++
          [.csAssert, .x (frame (addrOperand a) 0x00) r, .csDeassert, .rsp .ok .none] }

/-- A strobe of `a` whose exchange faults. -/
def Sys2Proof.Machine.StrobeFaults (i : Instr) (a : Addr) : Prop :=
  ∀ (s : State) (answers : List BusAnswer),
    s.ctl = .ready → 5 ≤ s.pace → s.busIn = .fault :: answers →
    ∃ t, exec i s = .next t ∧ Aborted .busFault s t ∧
      t.trace = s.trace ++
        [.csAssert, .xf (frame (addrOperand a) 0x00), .csDeassert, .rsp .busFault .none] ∧
      t.busIn = answers ∧ t.cOp = 0b000 ∧ t.cAddr = a ∧
      FaultedAt (frame (addrOperand a) 0x00) .none 0 0 t

/-- R111: STROBE, for every address operand, with its exchange answered `ok` (the next state) or
faulted; and its aliases SIDLE and STX (R92). -/
def Obligations.StrobeFollowsItsRule : Prop :=
  (∀ addr : Byte,
    StrobeRuns (.strobe addr) (addr.setWidth 6) ∧ StrobeFaults (.strobe addr) (addr.setWidth 6)) ∧
  StrobeRuns .sidle 0x36 ∧ StrobeFaults .sidle 0x36 ∧
  StrobeRuns .stx 0x35 ∧ StrobeFaults .stx 0x35

/-- A burst write of `len` bytes of DBUF to `a`, every exchange answered `ok`: the next state, the ignored
latch and the synchronizer left open. -/
def Sys2Proof.Machine.WburstRuns (i : Instr) (a : Addr) (len : Byte) : Prop :=
  ∀ (s : State) (r : Byte) (data received : List Byte) (answers : List BusAnswer),
    s.ctl = .ready → len.toNat + 5 ≤ s.pace → data.length = len.toNat → dbufHolds s data →
    received.length = len.toNat → s.busIn = .ok r :: (oks received ++ answers) →
    ∃ level sy, exec i s = .next
      { s with
        ctl := .ready, frm := .idle, cs := false, ret := none
        hdr := frame (addrOperand a) 0x40, cnt := 0, idx := len, dir := .wr, ferr := false
        cOp := 0b001, cAddr := a, cLen := len, cLevel := level, sync := sy
        rspValid := true, rspCode := 0, rspRlen := 0
        busIn := answers
        trace := s.trace ++ okWindow (frame (addrOperand a) 0x40) r data received ++
          [.rsp .ok .none] }

/-- A burst write that faults at its header, or at the data byte `bad` after the bytes `sent`: what R179
gives, the latches, and the framer's registers as they stood at the fault. -/
def Sys2Proof.Machine.WburstFaults (i : Instr) (a : Addr) (len : Byte) : Prop :=
  (∀ (s : State) (answers : List BusAnswer),
    s.ctl = .ready → len.toNat + 5 ≤ s.pace → s.busIn = .fault :: answers →
    ∃ t, exec i s = .next t ∧ Aborted .busFault s t ∧ t.busIn = answers ∧
      t.cOp = 0b001 ∧ t.cAddr = a ∧ t.cLen = len ∧
      FaultedAt (frame (addrOperand a) 0x40) .wr len.toNat 0 t ∧
      t.trace = s.trace ++ headerFaultWindow (frame (addrOperand a) 0x40) ++
        [.rsp .busFault .none]) ∧
  ∀ (s : State) (r bad : Byte) (sent received : List Byte) (answers : List BusAnswer),
    s.ctl = .ready → len.toNat + 5 ≤ s.pace → sent.length < len.toNat →
    dbufHolds s (sent ++ [bad]) → received.length = sent.length →
    s.busIn = .ok r :: (oks received ++ .fault :: answers) →
    ∃ t, exec i s = .next t ∧ Aborted .busFault s t ∧ t.busIn = answers ∧
      t.cOp = 0b001 ∧ t.cAddr = a ∧ t.cLen = len ∧
      FaultedAt (frame (addrOperand a) 0x40) .wr len.toNat sent.length t ∧
      t.trace = s.trace ++ dataFaultWindow (frame (addrOperand a) 0x40) r sent received bad ++
        [.rsp .busFault .none]

/-- R112: WBURST, for every address and every length from 0 to 255, with every exchange answered `ok`
(the next state: RBUF is not written) or with a fault at any of them; and its aliases (R92). -/
def Obligations.WburstFollowsItsRule : Prop :=
  (∀ addr len : Byte, WburstRuns (.wburst addr len) (addr.setWidth 6) len ∧
    WburstFaults (.wburst addr len) (addr.setWidth 6) len) ∧
  (∀ len : Byte, WburstRuns (.wrPatable len) 0x3E len ∧ WburstFaults (.wrPatable len) 0x3E len) ∧
  (∀ len : Byte, WburstRuns (.wrConfig len) 0x00 len ∧ WburstFaults (.wrConfig len) 0x00 len) ∧
  ∀ len : Byte, WburstRuns (.wrTxfifo len) 0x3F len ∧ WburstFaults (.wrTxfifo len) 0x3F len

/-- A burst read of `len` bytes from `a`, every exchange answered `ok`: the next state, RBUF holding the
bytes received and its other bytes left open with the ignored latch and the synchronizer, and what the
host reads then. -/
def Sys2Proof.Machine.RburstRuns (i : Instr) (a : Addr) (len : Byte) : Prop :=
  ∀ (s : State) (r : Byte) (received : List Byte) (answers : List BusAnswer),
    s.ctl = .ready → len.toNat + 5 ≤ s.pace → received.length = len.toNat →
    s.busIn = .ok r :: (oks received ++ answers) →
    ∃ t m level sy, exec i s = .next t ∧
      t = { s with
        ctl := .ready, frm := .idle, cs := false, ret := none
        hdr := frame (addrOperand a) 0xC0, cnt := 0, idx := len, dir := .rd, ferr := false
        cOp := 0b011, cAddr := a, cLen := len, cLevel := level, sync := sy
        rbuf := m
        rspValid := true, rspCode := 0, rspRlen := len
        busIn := answers
        trace := s.trace ++
          okWindow (frame (addrOperand a) 0xC0) r (List.replicate len.toNat 0x00) received ++
          [.rsp .ok (.data received)] } ∧
      (∀ j (h : j < received.length),
        Memory.read m j = some received[j] ∧ hostReadRbuf j t = some received[j]) ∧
      ∀ j, len.toNat ≤ j → hostReadRbuf j t = none

/-- A burst read that faults at its header, or in its data phase after the bytes `received`: the same, and no
byte is readable. -/
def Sys2Proof.Machine.RburstFaults (i : Instr) (a : Addr) (len : Byte) : Prop :=
  (∀ (s : State) (answers : List BusAnswer),
    s.ctl = .ready → len.toNat + 5 ≤ s.pace → s.busIn = .fault :: answers →
    ∃ t, exec i s = .next t ∧ Aborted .busFault s t ∧ t.busIn = answers ∧
      t.cOp = 0b011 ∧ t.cAddr = a ∧ t.cLen = len ∧
      FaultedAt (frame (addrOperand a) 0xC0) .rd len.toNat 0 t ∧
      (∀ j, hostReadRbuf j t = none) ∧
      t.trace = s.trace ++ headerFaultWindow (frame (addrOperand a) 0xC0) ++
        [.rsp .busFault .none]) ∧
  ∀ (s : State) (r : Byte) (received : List Byte) (answers : List BusAnswer),
    s.ctl = .ready → len.toNat + 5 ≤ s.pace → received.length < len.toNat →
    s.busIn = .ok r :: (oks received ++ .fault :: answers) →
    ∃ t, exec i s = .next t ∧ Aborted .busFault s t ∧ t.busIn = answers ∧
      t.cOp = 0b011 ∧ t.cAddr = a ∧ t.cLen = len ∧
      FaultedAt (frame (addrOperand a) 0xC0) .rd len.toNat received.length t ∧
      (∀ j, hostReadRbuf j t = none) ∧
      t.trace = s.trace ++
        dataFaultWindow (frame (addrOperand a) 0xC0) r
          (List.replicate received.length 0x00) received 0x00 ++
        [.rsp .busFault .none]

/-- R113: RBURST, for every address and every length, with every exchange answered `ok` (the next
state, and what the host reads then) or with a fault at any of them (no result); and its alias
RD_TXSTATUS (R92). -/
def Obligations.RburstFollowsItsRule : Prop :=
  (∀ addr len : Byte, RburstRuns (.rburst addr len) (addr.setWidth 6) len ∧
    RburstFaults (.rburst addr len) (addr.setWidth 6) len) ∧
  RburstRuns .rdTxstatus 0x3A 1 ∧ RburstFaults .rdTxstatus 0x3A 1

/-- R92: each alias is exactly the command it stands for, in every state. -/
def Obligations.AliasesAreTheirCommands : Prop :=
  ∀ (s : State) (len : Byte),
    exec .sidle s = exec (.strobe 0x36) s ∧ exec .stx s = exec (.strobe 0x35) s ∧
    exec (.wrPatable len) s = exec (.wburst 0x3E len) s ∧
    exec (.wrConfig len) s = exec (.wburst 0x00 len) s ∧
    exec (.wrTxfifo len) s = exec (.wburst 0x3F len) s ∧
    exec .rdTxstatus s = exec (.rburst 0x3A 1) s

/-! ## INIT -/

/-- R130, R131, R132: INIT with every exchange answered `ok`: two burst writes, the power table and then
the configuration table, and nothing else of the state changes; the ignored latches and the synchronizer
are left open. -/
def Sys2Proof.Machine.InitRuns : Prop :=
  ∀ (s : State) (r0 r1 : Byte) (ps cs : List Byte) (answers : List BusAnswer),
    s.ctl = .ready → 65 ≤ s.pace → ps.length = 8 → cs.length = 47 →
    s.busIn = .ok r0 :: (oks ps ++ .ok r1 :: (oks cs ++ answers)) →
    ∃ addr len level sy, exec .init s = .next
      { s with
        ctl := .ready, frm := .idle, cs := false, ret := none
        hdr := 0x40, cnt := 0, idx := 47, dir := .wr, ferr := false
        cOp := 0b100, cAddr := addr, cLen := len, cLevel := level, sync := sy
        rspValid := true, rspCode := 0, rspRlen := 0
        busIn := answers
        trace := s.trace ++ okWindow 0x7E r0 (List.replicate 8 s.pa0) ps ++
          okWindow 0x40 r1 s.cfg.toList cs ++ [.rsp .ok .none] }

/-- R130, R178: INIT stops at the first fault, at either header or at any byte of either table; after a
fault in the power table the configuration write is not attempted. -/
def Sys2Proof.Machine.InitFaults : Prop :=
  ∀ (s : State), s.ctl = .ready → 65 ≤ s.pace →
    (∀ answers, s.busIn = .fault :: answers →
      ∃ t, exec .init s = .next t ∧ Aborted .busFault s t ∧ t.busIn = answers ∧
        t.cOp = 0b100 ∧ FaultedAt 0x7E .wr 8 0 t ∧
        t.trace = s.trace ++ headerFaultWindow 0x7E ++ [.rsp .busFault .none]) ∧
    (∀ r0 ps answers, ps.length < 8 → s.busIn = .ok r0 :: (oks ps ++ .fault :: answers) →
      ∃ t, exec .init s = .next t ∧ Aborted .busFault s t ∧ t.busIn = answers ∧
        t.cOp = 0b100 ∧ FaultedAt 0x7E .wr 8 ps.length t ∧
        t.trace = s.trace ++
          dataFaultWindow 0x7E r0 (List.replicate ps.length s.pa0) ps s.pa0 ++
          [.rsp .busFault .none]) ∧
    (∀ r0 ps answers, ps.length = 8 → s.busIn = .ok r0 :: (oks ps ++ .fault :: answers) →
      ∃ t, exec .init s = .next t ∧ Aborted .busFault s t ∧ t.busIn = answers ∧
        t.cOp = 0b100 ∧ FaultedAt 0x40 .wr 47 0 t ∧
        t.trace = s.trace ++ okWindow 0x7E r0 (List.replicate 8 s.pa0) ps ++
          headerFaultWindow 0x40 ++ [.rsp .busFault .none]) ∧
    ∀ r0 ps r1 cs bad answers, ps.length = 8 → s.cfg.toList[cs.length]? = some bad →
      s.busIn = .ok r0 :: (oks ps ++ .ok r1 :: (oks cs ++ .fault :: answers)) →
      ∃ t, exec .init s = .next t ∧ Aborted .busFault s t ∧ t.busIn = answers ∧
        t.cOp = 0b100 ∧ FaultedAt 0x40 .wr 47 cs.length t ∧
        t.trace = s.trace ++ okWindow 0x7E r0 (List.replicate 8 s.pa0) ps ++
          dataFaultWindow 0x40 r1 (s.cfg.toList.take cs.length) cs bad ++ [.rsp .busFault .none]

/-- R130: INIT with every exchange answered `ok` (the next state), or with a fault at any of its 57
exchanges. -/
def Obligations.InitFollowsItsRule : Prop := InitRuns ∧ InitFaults

/-! ## TX -/

/-- The payload TX sends and the answers that carry it to its completion wait: DBUF holds `data`, and
the BUS agent answers steps 1 to 3 with `ok`. -/
structure Sys2Proof.Machine.TxSent (s : State) (len : Byte) (data received : List Byte)
    (r1 r2 r3 : Byte) (answers : List BusAnswer) : Prop where
  ready : s.ctl = .ready
  count : data.length = len.toNat
  held : dbufHolds s data
  echoes : received.length = len.toNat
  bus : s.busIn = .ok r1 :: .ok r2 :: (oks received ++ .ok r3 :: answers)

/-- The events of TX steps 1 to 3 (R134, R135). -/
def Sys2Proof.Machine.txSentEvents (data received : List Byte) (r1 r2 r3 : Byte) : List Event :=
  okWindow 0x36 r1 [] [] ++ okWindow 0x7F r2 data received ++ okWindow 0x35 r3 [] []

/-- The result TX reports for the raw status byte, as R136 puts it. -/
def Sys2Proof.Machine.txAnswer (status : Byte) : RspKind :=
  if status &&& 0x7F#8 = 0 then .ok else .txIncomplete

/-- R134, R135, R136: TX with nothing failing and the line idle after `k` busy samples, for every payload
of 0 to 255 bytes: the next state. The ignored latches, the synchronizer, RBUF but for the status byte, and
the counter of the free values are left open. -/
def Sys2Proof.Machine.TxPolledRuns : Prop :=
  ∀ (s : State) (len : Byte) (data received : List Byte) (r1 r2 r3 r4 status : Byte) (k : Nat)
    (answers : List BusAnswer) (levels : List Level),
    TxSent s len data received r1 r2 r3 (.ok r4 :: .ok status :: answers) →
    s.straps.policy = .signalPoll →
    (∀ n, pollBound s.straps.pollLimit = some n → k < n) →
    s.pinIn = List.replicate k (!s.straps.idleLevel) ++ s.straps.idleLevel :: levels →
    len.toNat + k + 23 ≤ s.pace →
    ∃ m addr level sy d, Memory.read m 0 = some status ∧ exec (.tx len) s = .next
      { s with
        ctl := .ready, frm := .idle, cs := false, ret := none
        hdr := 0xFA, cnt := 0, idx := 1, dir := .rd, ferr := false
        cOp := 0b101, cAddr := addr, cLen := len, cLevel := level
        tgtLevel := s.straps.idleLevel, pollCnt := mismatchesCounted s.straps.pollLimit k
        rbuf := m, txstat := (status &&& 0x7F#8).setWidth 7
        rspValid := true, rspCode := RspKind.code (txAnswer status), rspRlen := 1
        sync := sy, draws := d
        busIn := answers, pinIn := levels
        trace := s.trace ++ txSentEvents data received r1 r2 r3 ++
          samples (List.replicate k (!s.straps.idleLevel) ++ [s.straps.idleLevel]) ++
          okWindow 0xFA r4 [0x00] [status] ++
          [.rsp (txAnswer status) (.txstat ((status &&& 0x7F#8).setWidth 7))] }

/-- R155, R156: TX with the fixed delay takes no sample: one `Dly` event stands for its step 4. -/
def Sys2Proof.Machine.TxDelayedRuns : Prop :=
  ∀ (s : State) (len : Byte) (data received : List Byte) (r1 r2 r3 r4 status : Byte)
    (answers : List BusAnswer),
    TxSent s len data received r1 r2 r3 (.ok r4 :: .ok status :: answers) →
    s.straps.policy = .fixedDelay → len.toNat + 23 ≤ s.pace →
    ∃ m addr level sy, Memory.read m 0 = some status ∧ exec (.tx len) s = .next
      { s with
        ctl := .ready, frm := .idle, cs := false, ret := none
        hdr := 0xFA, cnt := 0, idx := 1, dir := .rd, ferr := false
        cOp := 0b101, cAddr := addr, cLen := len, cLevel := level, sync := sy
        rbuf := m, txstat := (status &&& 0x7F#8).setWidth 7
        rspValid := true, rspCode := RspKind.code (txAnswer status), rspRlen := 1
        busIn := answers
        trace := s.trace ++ txSentEvents data received r1 r2 r3 ++ [.dly] ++
          okWindow 0xFA r4 [0x00] [status] ++
          [.rsp (txAnswer status) (.txstat ((status &&& 0x7F#8).setWidth 7))] }

/-- R135, R136, R156: TX with nothing failing, for every payload of 0 to 255 bytes and every status byte,
with the polled wait and with the fixed delay: every step in its order, and the next state. -/
def Obligations.TxSendsAndJudges : Prop := TxPolledRuns ∧ TxDelayedRuns

/-- R137, R153, R173: TX whose line stays busy for `POLL_LIMIT` samples ends in `TIMEOUT`; no status read
follows and no idle strobe is sent. The framer's registers are those of the transmit strobe. -/
def Sys2Proof.Machine.TxTimesOut : Prop :=
  ∀ (s : State) (len : Byte) (data received : List Byte) (r1 r2 r3 : Byte) (n : Nat)
    (answers : List BusAnswer) (levels : List Level),
    TxSent s len data received r1 r2 r3 answers →
    s.straps.policy = .signalPoll → pollBound s.straps.pollLimit = some n →
    s.pinIn = List.replicate n (!s.straps.idleLevel) ++ levels → len.toNat + n + 22 ≤ s.pace →
    ∃ t, exec (.tx len) s = .next t ∧ Aborted .timeout s t ∧ t.busIn = answers ∧
      t.pinIn = levels ∧ t.tgtLevel = s.straps.idleLevel ∧ t.pollCnt = n ∧
      t.cOp = 0b101 ∧ t.cLen = len ∧
      t.hdr = 0x35 ∧ t.cnt = 0 ∧ t.idx = 0 ∧ t.dir = .none ∧ t.ferr = false ∧
      t.trace = s.trace ++ txSentEvents data received r1 r2 r3 ++
        samples (List.replicate n (!s.straps.idleLevel)) ++ [.rsp .timeout .none]

/-- The poller's registers and the line's samples are as before: no wait has started, or the wait was the fixed
delay (R26, R156). -/
def Sys2Proof.Machine.PollerUntouched (before after : State) : Prop :=
  after.tgtLevel = before.tgtLevel ∧ after.pollCnt = before.pollCnt ∧ after.pinIn = before.pinIn

/-- R137, steps 1 to 3: TX stops at the first fault; later steps are not performed. -/
def Sys2Proof.Machine.TxFaultsBeforeTheWait : Prop :=
  ∀ (s : State) (len : Byte), s.ctl = .ready → len.toNat + 15 ≤ s.pace →
    (∀ answers, s.busIn = .fault :: answers →
      ∃ t, exec (.tx len) s = .next t ∧ Aborted .busFault s t ∧ t.busIn = answers ∧
        t.cOp = 0b101 ∧ t.cLen = len ∧ PollerUntouched s t ∧
        FaultedAt 0x36 .none 0 0 t ∧
        t.trace = s.trace ++ headerFaultWindow 0x36 ++ [.rsp .busFault .none]) ∧
    (∀ r1 answers, s.busIn = .ok r1 :: .fault :: answers →
      ∃ t, exec (.tx len) s = .next t ∧ Aborted .busFault s t ∧ t.busIn = answers ∧
        t.cOp = 0b101 ∧ t.cLen = len ∧ PollerUntouched s t ∧
        FaultedAt 0x7F .wr len.toNat 0 t ∧
        t.trace = s.trace ++ okWindow 0x36 r1 [] [] ++ headerFaultWindow 0x7F ++
          [.rsp .busFault .none]) ∧
    (∀ r1 r2 sent received bad answers, sent.length < len.toNat → dbufHolds s (sent ++ [bad]) →
      received.length = sent.length →
      s.busIn = .ok r1 :: .ok r2 :: (oks received ++ .fault :: answers) →
      ∃ t, exec (.tx len) s = .next t ∧ Aborted .busFault s t ∧ t.busIn = answers ∧
        t.cOp = 0b101 ∧ t.cLen = len ∧ PollerUntouched s t ∧
        FaultedAt 0x7F .wr len.toNat sent.length t ∧
        t.trace = s.trace ++ okWindow 0x36 r1 [] [] ++
          dataFaultWindow 0x7F r2 sent received bad ++ [.rsp .busFault .none]) ∧
    ∀ r1 r2 data received answers, data.length = len.toNat → dbufHolds s data →
      received.length = len.toNat →
      s.busIn = .ok r1 :: .ok r2 :: (oks received ++ .fault :: answers) →
      ∃ t, exec (.tx len) s = .next t ∧ Aborted .busFault s t ∧ t.busIn = answers ∧
        t.cOp = 0b101 ∧ t.cLen = len ∧ PollerUntouched s t ∧
        FaultedAt 0x35 .none 0 0 t ∧
        t.trace = s.trace ++ okWindow 0x36 r1 [] [] ++ okWindow 0x7F r2 data received ++
          headerFaultWindow 0x35 ++ [.rsp .busFault .none]

/-- R137, step 5: a fault in the status read, at its header or its data byte, ends TX with `BUS_FAULT`;
the mask and the compare are not performed. -/
def Sys2Proof.Machine.TxFaultsInTheStatusRead : Prop :=
  ∀ (s : State) (len : Byte) (data received : List Byte) (r1 r2 r3 : Byte) (k : Nat)
    (answers : List BusAnswer) (levels : List Level),
    TxSent s len data received r1 r2 r3 answers →
    s.straps.policy = .signalPoll →
    (∀ n, pollBound s.straps.pollLimit = some n → k < n) →
    s.pinIn = List.replicate k (!s.straps.idleLevel) ++ s.straps.idleLevel :: levels →
    len.toNat + k + 23 ≤ s.pace →
    (∀ later, answers = .fault :: later →
      ∃ t, exec (.tx len) s = .next t ∧ Aborted .busFault s t ∧ t.busIn = later ∧
        t.tgtLevel = s.straps.idleLevel ∧ t.pollCnt = mismatchesCounted s.straps.pollLimit k ∧
        t.pinIn = levels ∧ t.cOp = 0b101 ∧ t.cLen = len ∧ FaultedAt 0xFA .rd 1 0 t ∧
        t.trace = s.trace ++ txSentEvents data received r1 r2 r3 ++
          samples (List.replicate k (!s.straps.idleLevel) ++ [s.straps.idleLevel]) ++
          headerFaultWindow 0xFA ++ [.rsp .busFault .none]) ∧
    ∀ r4 later, answers = .ok r4 :: .fault :: later →
      ∃ t, exec (.tx len) s = .next t ∧ Aborted .busFault s t ∧ t.busIn = later ∧
        t.tgtLevel = s.straps.idleLevel ∧ t.pollCnt = mismatchesCounted s.straps.pollLimit k ∧
        t.pinIn = levels ∧ t.cOp = 0b101 ∧ t.cLen = len ∧ FaultedAt 0xFA .rd 1 0 t ∧
        t.trace = s.trace ++ txSentEvents data received r1 r2 r3 ++
          samples (List.replicate k (!s.straps.idleLevel) ++ [s.straps.idleLevel]) ++
          dataFaultWindow 0xFA r4 [] [] 0x00 ++ [.rsp .busFault .none]

/-- The same after the fixed delay. -/
def Sys2Proof.Machine.TxFaultsInTheDelayedStatusRead : Prop :=
  ∀ (s : State) (len : Byte) (data received : List Byte) (r1 r2 r3 : Byte) (answers : List BusAnswer),
    TxSent s len data received r1 r2 r3 answers →
    s.straps.policy = .fixedDelay → len.toNat + 23 ≤ s.pace →
    (∀ later, answers = .fault :: later →
      ∃ t, exec (.tx len) s = .next t ∧ Aborted .busFault s t ∧ t.busIn = later ∧
        t.cOp = 0b101 ∧ t.cLen = len ∧ PollerUntouched s t ∧
        FaultedAt 0xFA .rd 1 0 t ∧
        t.trace = s.trace ++ txSentEvents data received r1 r2 r3 ++ [.dly] ++
          headerFaultWindow 0xFA ++ [.rsp .busFault .none]) ∧
    ∀ r4 later, answers = .ok r4 :: .fault :: later →
      ∃ t, exec (.tx len) s = .next t ∧ Aborted .busFault s t ∧ t.busIn = later ∧
        t.cOp = 0b101 ∧ t.cLen = len ∧ PollerUntouched s t ∧
        FaultedAt 0xFA .rd 1 0 t ∧
        t.trace = s.trace ++ txSentEvents data received r1 r2 r3 ++ [.dly] ++
          dataFaultWindow 0xFA r4 [] [] 0x00 ++ [.rsp .busFault .none]

/-- R137, every row: a fault at any exchange of steps 1, 2, 3 and 5, or a line busy for `POLL_LIMIT`
samples, ends TX at once; the events up to there, the response, and none of the later steps. -/
def Obligations.TxAbortsAtTheFirstFailure : Prop :=
  TxTimesOut ∧ TxFaultsBeforeTheWait ∧ TxFaultsInTheStatusRead ∧ TxFaultsInTheDelayedStatusRead

/-- R136: of the 256 raw status bytes exactly `0x00` and `0x80` give `OK`; `txstat` is bits 6:0. -/
def Obligations.TxResultOfEveryStatusByte : Prop :=
  ∀ status : Byte,
    (txResult (maskStatus status) = .ok ↔ status = 0x00#8 ∨ status = 0x80#8) ∧
    (txResult (maskStatus status) = .txIncomplete ↔ maskStatus status ≠ 0) ∧
    maskStatus status = status.extractLsb' 0 7

/-! ## Waiting -/

/-- R152, R153, R154: WAIT whose line matches after `k` mismatching samples, fewer than the bound: the
next state. The ignored latches, the synchronizer, RBUF (no byte of it is valid, R32) and the counter of the
free values are left open. -/
def Sys2Proof.Machine.WaitMatches : Prop :=
  ∀ (s : State) (level : Level) (k : Nat) (levels : List Level),
    s.ctl = .ready → k + 2 ≤ s.pace →
    (∀ n, pollBound s.straps.pollLimit = some n → k < n) →
    s.pinIn = List.replicate k (!level) ++ level :: levels →
    ∃ m addr len sy d, exec (.wait level) s = .next
      { s with
        ctl := .ready, frm := .idle, ret := none
        cOp := 0b110, cAddr := addr, cLen := len, cLevel := level, rbuf := m
        tgtLevel := level, pollCnt := mismatchesCounted s.straps.pollLimit k
        rspValid := true, rspCode := 0, rspRlen := 0
        sync := sy, draws := d, pinIn := levels
        trace := s.trace ++ samples (List.replicate k (!level) ++ [level]) ++ [.rsp .ok .none] }

/-- R153, R154, R173: WAIT whose first `POLL_LIMIT` samples all mismatch. -/
def Sys2Proof.Machine.WaitTimesOut : Prop :=
  ∀ (s : State) (level : Level) (n : Nat) (levels : List Level),
    s.ctl = .ready → s.cs = false → n + 1 ≤ s.pace → pollBound s.straps.pollLimit = some n →
    s.pinIn = List.replicate n (!level) ++ levels →
    ∃ t, exec (.wait level) s = .next t ∧ Aborted .timeout s t ∧ t.pinIn = levels ∧
      t.tgtLevel = level ∧ t.pollCnt = n ∧ t.busIn = s.busIn ∧ t.cOp = 0b110 ∧ t.cLevel = level ∧
      t.trace = s.trace ++ samples (List.replicate n (!level)) ++ [.rsp .timeout .none]

/-- WAIT with no bound whose line stays at the other level for `k` samples: the command has not ended. -/
def Sys2Proof.Machine.WaitHangs : Prop :=
  ∀ (s : State) (level : Level) (k : Nat) (levels : List Level),
    s.ctl = .ready → s.pace = k → s.straps.pollLimit = .unbounded →
    s.pinIn = List.replicate k (!level) ++ levels →
    ∃ t, exec (.wait level) s = .next t ∧ t.ctl = .wait ∧ t.rspValid = false ∧ t.pinIn = levels ∧
      t.trace = s.trace ++ samples (List.replicate k (!level))

/-- R154: WAIT for either level, under either policy: a match after `k` mismatching samples, fewer than
the bound (the next state); a bound reached; and, with no bound, no end while the line stays at the
other level. -/
def Obligations.WaitFollowsItsRule : Prop := WaitMatches ∧ WaitTimesOut ∧ WaitHangs

/-- R158: with no bound, a poller whose line has not matched is still waiting after any number of
samples: it has produced the samples and no response. -/
def Sys2Proof.Machine.UnboundedWaitNeverGivesUp : Prop :=
  ∀ (s : State) (k : Nat) (levels : List Level),
    polling s = true → s.frm = .idle → s.straps.pollLimit = .unbounded →
    s.pinIn = List.replicate k (!s.tgtLevel) ++ levels →
    (advance k s).ctl = s.ctl ∧ (advance k s).ret = none ∧ (advance k s).pollCnt = s.pollCnt ∧
      polling (advance k s) = true ∧
      (advance k s).trace = s.trace ++ samples (List.replicate k (!s.tgtLevel))

/-- R158: the poller leaves the loop by a matching sample or by the bound, and by nothing else. -/
def Sys2Proof.Machine.PollerLeavesByMatchOrBound : Prop :=
  ∀ s : State, polling s = true → s.frm = .idle →
    ∃ v, (tick s).trace = s.trace ++ [.s v] ∧ (tick s).ctl = s.ctl ∧
      ((v = s.tgtLevel ∧ (tick s).ret = some .ok) ∨
        (v ≠ s.tgtLevel ∧ (tick s).ret = none ∧
          pollBound s.straps.pollLimit ≠ some (s.pollCnt + 1)) ∨
        (v ≠ s.tgtLevel ∧ (tick s).ret = some .timeout ∧
          pollBound s.straps.pollLimit = some (s.pollCnt + 1)))

/-- R158: with `POLL_LIMIT = N` every wait loop ends within `N` samples, whatever the line does. -/
def Sys2Proof.Machine.BoundedWaitEnds : Prop :=
  ∀ (s : State) (n : Nat), polling s = true → s.frm = .idle → s.pollCnt = 0 →
    pollBound s.straps.pollLimit = some n →
    ∃ k, 1 ≤ k ∧ k ≤ n ∧ (advance k s).ctl = s.ctl ∧
      ((advance k s).ret = some .ok ∨ (advance k s).ret = some .timeout) ∧
      ∃ vs : List Level, vs.length = k ∧ (advance k s).trace = s.trace ++ samples vs

/-- R158: a wait loop is left by a matching sample or by the bound and by nothing else; with no bound it
goes on as long as the line stays at the other level; with the bound `N` it ends within `N` samples. -/
def Obligations.WaitLoopEndsByMatchOrBound : Prop :=
  PollerLeavesByMatchOrBound ∧ UnboundedWaitNeverGivesUp ∧ BoundedWaitEnds

/-! ## Reserved encodings -/

/-- A command answered at once with `CMD_ILLEGAL`: the next state, the ignored latches, the synchronizer
and RBUF (no byte of it is valid, R32) left open. -/
def Sys2Proof.Machine.AnsweredIllegal (i : Instr) (op : BitVec 3) : Prop :=
  ∀ s : State, s.ctl = .ready → 1 ≤ s.pace →
    ∃ m addr len level sy, exec i s = .next
      { s with
        ctl := .ready, frm := .idle, ret := none, cOp := op
        cAddr := addr, cLen := len, cLevel := level, sync := sy, rbuf := m
        rspValid := true, rspCode := 4, rspRlen := 0
        trace := s.trace ++ [.rsp .cmdIllegal .none] }

/-- The same at the finest pace: acceptance is a step of its own, in `C_ILLEGAL`. -/
def Sys2Proof.Machine.PassesThroughIllegal (i : Instr) (op : BitVec 3) : Prop :=
  ∀ s : State, s.ctl = .ready → s.pace = 0 →
    ∃ t, exec i s = .next t ∧ t.ctl = .illegal ∧ t.cOp = op ∧ t.rspValid = false ∧
      t.trace = s.trace ∧ (tick t).ctl = .ready ∧
      (tick t).trace = s.trace ++ [.rsp .cmdIllegal .none]

/-- R89: the two reserved command codes are accepted like any other, produce no bus event and no sample,
and are answered `CMD_ILLEGAL`; `ctl` passes through `C_ILLEGAL`. -/
def Obligations.ReservedCodesAreAnsweredIllegal : Prop :=
  AnsweredIllegal .cmdReserved010 0b010 ∧ PassesThroughIllegal .cmdReserved010 0b010 ∧
  AnsweredIllegal .cmdReserved111 0b111 ∧ PassesThroughIllegal .cmdReserved111 0b111

/-- A bus operation with the reserved header mode is answered as command code `0b010` (the model's
reading of R86, R88 and U10, log entry 12): the header never reaches the bus. That the ignored latches, the
synchronizer and RBUF stay is its choice, log entries 15, 18 and 25. -/
def Obligations.ReservedHeaderIsAnsweredIllegal : Prop :=
  ∀ (addr : Byte) (s : State), s.ctl = .ready → 1 ≤ s.pace →
    exec (.hdrReserved addr) s = .next
      { s with
        ctl := .ready, frm := .idle, ret := none, cOp := 0b010, cAddr := addr.setWidth 6
        rspValid := true, rspCode := 4, rspRlen := 0
        trace := s.trace ++ [.rsp .cmdIllegal .none] }

/-! ## All commands -/

/-- R11, R170, R177: every command whose wait is bounded completes, whatever the bus, the line and the
buffers hold: exactly one response, its last event, with a code the table allows, and chip-select is
deasserted. Every exchange is answered (U6, D26; log entry 4); the answer to the reserved header mode is
the model's reading, log entry 12. -/
def Obligations.EveryBoundedCommandIsAnswered : Prop :=
  ∀ (i : Instr) (s : State) (n : Nat), s.Inv → s.ctl = .ready →
    waitBound s.straps i = some n → smallStepsOf n i ≤ s.pace →
    ∃ t k info es, exec i s = .next t ∧ t.ctl = .ready ∧ t.frm = .idle ∧ t.cs = false ∧
      t.rspValid = true ∧ t.rspCode = RspKind.code k ∧ mayAnswer s.straps i k = true ∧
      t.trace = s.trace ++ es ++ [.rsp k info] ∧ ∀ e ∈ es, e.isRsp = false

/-- R170: a command that has ended has ended with a code the table allows, at any pace, also where its
wait has no bound; and one that has not ended has posted no response. The answer to the reserved header
mode is the model's reading, log entry 12. -/
def Obligations.OnlyTheTableAnswers : Prop :=
  ∀ (i : Instr) (s t : State), s.ctl = .ready → exec i s = .next t →
    (t.ctl = .ready →
      t.rspValid = true ∧ ∃ k, t.rspCode = RspKind.code k ∧ mayAnswer s.straps i k = true) ∧
    (t.ctl ≠ .ready → t.rspValid = false ∧ ∀ e ∈ t.trace.drop s.trace.length, e.isRsp = false)

/-- R83, R135, R130: a command that ended with `OK` or `TX_INCOMPLETE` has put exactly its own headers on
the bus, one window each, in their order. -/
def Obligations.GoodCommandsSendTheirHeaders : Prop :=
  ∀ (i : Instr) (s t : State), s.Inv → s.ctl = .ready → exec i s = .next t → t.ctl = .ready →
    t.rspCode = RspKind.code .ok ∨ t.rspCode = RspKind.code .txIncomplete →
    ∃ es, t.trace = s.trace ++ es ∧ busHeaders es = i.headers

/-- R92: TX, with the polled wait and nothing failing, produces the bus events of SIDLE, WR_TXFIFO, STX,
WAIT idle and RD_TXSTATUS one after another. -/
def Obligations.TxIsTheSequenceOfItsSteps : Prop :=
  ∀ (s : State) (len : Byte) (data received : List Byte) (r1 r2 r3 r4 status : Byte) (k : Nat)
    (answers : List BusAnswer) (levels : List Level),
    TxSent s len data received r1 r2 r3 (.ok r4 :: .ok status :: answers) →
    s.straps.policy = .signalPoll →
    (∀ n, pollBound s.straps.pollLimit = some n → k < n) →
    s.pinIn = List.replicate k (!s.straps.idleLevel) ++ s.straps.idleLevel :: levels →
    len.toNat + k + 23 ≤ s.pace →
    ∃ t a b c d e whole steps, exec (.tx len) s = .next t ∧
      exec .sidle s = .next a ∧ exec (.wrTxfifo len) a = .next b ∧ exec .stx b = .next c ∧
      exec (.wait s.straps.idleLevel) c = .next d ∧ exec .rdTxstatus d = .next e ∧
      t.trace = s.trace ++ whole ∧ e.trace = s.trace ++ steps ∧
      busEvents whole = busEvents steps

/-- R92: INIT, with nothing failing, produces the bus events of WR_PATABLE with the power table and then
WR_CONFIG with the configuration table. -/
def Obligations.InitIsTheSequenceOfItsSteps : Prop :=
  ∀ (s : State) (r0 r1 : Byte) (ps cs : List Byte) (answers : List BusAnswer) (m1 m2 : Memory),
    s.ctl = .ready → 65 ≤ s.pace → ps.length = 8 → cs.length = 47 →
    s.busIn = .ok r0 :: (oks ps ++ .ok r1 :: (oks cs ++ answers)) →
    dbufHolds { s with dbuf := m1 } (List.replicate 8 s.pa0) →
    dbufHolds { s with dbuf := m2 } s.cfg.toList →
    ∃ t a b whole steps, exec .init s = .next t ∧
      exec (.wrPatable 8) { s with dbuf := m1 } = .next a ∧
      exec (.wrConfig 47) { a with dbuf := m2 } = .next b ∧
      t.trace = s.trace ++ whole ∧ b.trace = s.trace ++ steps ∧
      busEvents whole = busEvents steps

/-! ## What the host reads -/

/-- R27, R28, R32, R211: the host reads the response, `txstat` and RBUF only while the block is ready with a
response posted; `txstat` only after a TX that reached step 6; of RBUF only the valid bytes. -/
def Obligations.HostReadsOnlyAPostedResponse : Prop :=
  ∀ s : State,
    (∀ r, hostReadRsp s = some r ↔
      s.ctl = .ready ∧ s.rspValid = true ∧ r = (s.rspCode, s.rspRlen)) ∧
    (∀ v, hostReadTxstat s = some v ↔
      s.ctl = .ready ∧ s.rspValid = true ∧ s.cOp = 0b101#3 ∧
        (s.rspCode = RspKind.code .ok ∨ s.rspCode = RspKind.code .txIncomplete) ∧ v = s.txstat) ∧
    ∀ j b, hostReadRbuf j s = some b ↔
      s.ctl = .ready ∧ s.rspValid = true ∧ j < s.rspRlen.toNat ∧ Memory.read s.rbuf j = some b

/-- R27, R28, R32, R90, R211: after a command the host reads what its response event carried: the code,
the number of valid bytes of RBUF and just those bytes, and `txstat` exactly where the event carries it;
while the command still runs it reads nothing. -/
def Obligations.HostReadsWhatTheCommandLeft : Prop :=
  ∀ (i : Instr) (s t : State), s.Inv → s.ctl = .ready → exec i s = .next t →
    (t.ctl ≠ .ready →
      hostReadRsp t = none ∧ hostReadTxstat t = none ∧ ∀ j, hostReadRbuf j t = none) ∧
    (t.ctl = .ready → ∃ k info es, t.trace = s.trace ++ es ++ [.rsp k info] ∧
      hostReadRsp t = some (RspKind.code k, BitVec.ofNat 8 (validLength i k)) ∧
      (∀ v, hostReadTxstat t = some v ↔ info = .txstat v) ∧
      (∀ j, (hostReadRbuf j t).isSome ↔ j < validLength i k) ∧
      ∀ bytes, info = .data bytes → ∀ j, hostReadRbuf j t = bytes[j]?)

/-! ## Frames: what a command leaves unchanged, at any pace and for any answers

What these say of the latches a command ignores, of the synchronizer and of RBUF bytes that are not valid
is the model's choice: log entries 15, 18 and 25. -/

/-- What no command writes: DBUF, the constants, the straps, the host's moves, the pace. -/
def Obligations.CommandsLeaveTheirSurroundings : Prop :=
  ∀ (i : Instr) (s t : State), exec i s = .next t →
    (∀ j, Memory.read t.dbuf j = Memory.read s.dbuf j) ∧
    t.cfg = s.cfg ∧ t.pa0 = s.pa0 ∧ t.straps = s.straps ∧ t.hostIn = s.hostIn ∧ t.pace = s.pace

/-- What the strobes, the burst writes and INIT leave unchanged (R111, R112, R130): the poller's
registers, the line's samples, and, but for an abort (R179), `txstat` and every byte of RBUF; and by the
model's choice the latches they ignore (log entry 15; R25 latches every operand at acceptance) and the
synchronizer (log entry 18). -/
def Obligations.SendingCommandsLeaveTheRest : Prop :=
  ∀ (i : Instr) (s t : State) (addr len : Byte),
    i = .strobe addr ∨ i = .sidle ∨ i = .stx ∨ i = .wburst addr len ∨ i = .wrPatable len ∨
      i = .wrConfig len ∨ i = .wrTxfifo len ∨ i = .init →
    s.ctl = .ready → exec i s = .next t →
    t.tgtLevel = s.tgtLevel ∧ t.pollCnt = s.pollCnt ∧ t.sync = s.sync ∧ t.pinIn = s.pinIn ∧
    t.cLevel = s.cLevel ∧
    (i = .strobe addr ∨ i = .sidle ∨ i = .stx ∨ i = .init → t.cLen = s.cLen) ∧
    (i = .init → t.cAddr = s.cAddr) ∧
    (¬ (t.rspValid = true ∧ t.rspCode = RspKind.code .busFault) →
      t.txstat = s.txstat ∧ ∀ j, Memory.read t.rbuf j = Memory.read s.rbuf j)

/-- What the burst reads leave unchanged (R113): the poller's registers, the line's samples, and, but for an
abort (R179), `txstat`; and by the model's choice the level latch (log entry 15), the synchronizer (log
entry 18) and RBUF from the length read on (log entry 25; R32 leaves those bytes open). -/
def Obligations.ReadingCommandsLeaveTheRest : Prop :=
  ∀ (s t : State) (addr len n : Byte) (i : Instr),
    (i = .rburst addr len ∧ n = len) ∨ (i = .rdTxstatus ∧ n = 1) →
    s.ctl = .ready → exec i s = .next t →
    t.tgtLevel = s.tgtLevel ∧ t.pollCnt = s.pollCnt ∧ t.sync = s.sync ∧ t.pinIn = s.pinIn ∧
    t.cLevel = s.cLevel ∧
    (¬ (t.rspValid = true ∧ t.rspCode = RspKind.code .busFault) →
      t.txstat = s.txstat ∧
      ∀ j, n.toNat ≤ j → Memory.read t.rbuf j = Memory.read s.rbuf j)

/-- What TX leaves unchanged, by the model's choice: the address and level latches (log entry 15; R25
latches every operand at acceptance), and, but for an abort (R179), every byte of RBUF but the status byte
(log entry 25; R134 writes `RBUF[0]` alone, R32 leaves the others open). -/
def Obligations.TxLeavesTheRest : Prop :=
  ∀ (s t : State) (len : Byte), s.ctl = .ready → exec (.tx len) s = .next t →
    t.cAddr = s.cAddr ∧ t.cLevel = s.cLevel ∧
    (¬ (t.rspValid = true ∧
        (t.rspCode = RspKind.code .busFault ∨ t.rspCode = RspKind.code .timeout)) →
      ∀ j, 1 ≤ j → Memory.read t.rbuf j = Memory.read s.rbuf j)

/-- What WAIT leaves unchanged (R154): the framer's phase and registers, chip-select, the bus, and, but for
an abort (R179), `txstat`; and by the model's choice the address and length latches (log entry 15) and, but
for an abort, every byte of RBUF (log entry 25). -/
def Obligations.WaitLeavesTheRest : Prop :=
  ∀ (s t : State) (level : Level), s.ctl = .ready → exec (.wait level) s = .next t →
    t.frm = .idle ∧ (s.Inv → t.frm = s.frm) ∧
    t.hdr = s.hdr ∧ t.cnt = s.cnt ∧ t.idx = s.idx ∧ t.dir = s.dir ∧ t.ferr = s.ferr ∧
    t.cs = s.cs ∧ t.busIn = s.busIn ∧ t.cAddr = s.cAddr ∧ t.cLen = s.cLen ∧
    (¬ (t.rspValid = true ∧ t.rspCode = RspKind.code .timeout) →
      t.txstat = s.txstat ∧ ∀ j, Memory.read t.rbuf j = Memory.read s.rbuf j)

/-- What the reserved codes leave unchanged (R89: no bus event and no sample): the framer's registers,
chip-select, the bus, the poller's registers, the line's samples and `txstat`; and by the model's choice the
latches they ignore (log entry 15), the synchronizer (log entry 18) and every byte of RBUF (log entry 25).
The reserved header mode with them is the model's reading, log entry 12. -/
def Obligations.ReservedCommandsLeaveTheRest : Prop :=
  ∀ (i : Instr) (s t : State) (addr : Byte),
    i = .cmdReserved010 ∨ i = .cmdReserved111 ∨ i = .hdrReserved addr →
    s.ctl = .ready → exec i s = .next t →
    t.frm = .idle ∧ t.hdr = s.hdr ∧ t.cnt = s.cnt ∧ t.idx = s.idx ∧ t.dir = s.dir ∧
    t.ferr = s.ferr ∧ t.cs = s.cs ∧ t.busIn = s.busIn ∧
    t.tgtLevel = s.tgtLevel ∧ t.pollCnt = s.pollCnt ∧ t.sync = s.sync ∧ t.pinIn = s.pinIn ∧
    t.cLen = s.cLen ∧ t.cLevel = s.cLevel ∧
    (i = .cmdReserved010 ∨ i = .cmdReserved111 → t.cAddr = s.cAddr) ∧
    t.txstat = s.txstat ∧ ∀ j, Memory.read t.rbuf j = Memory.read s.rbuf j

/-- R150, R151: the flip-flop the poller reads holds the level of the sample when a sample is taken. That
no other small step of the block moves the synchronizer is the model's choice, log entry 18. -/
def Obligations.SynchronizerMovesOnlyAtASample : Prop :=
  ∀ s : State, (∀ v, (tick s).trace = s.trace ++ [.s v] → (tick s).sync.ff1 = v) ∧
    ((∀ v, (tick s).trace ≠ s.trace ++ [.s v]) → (tick s).sync = s.sync)

/-! ## The invariant -/

/-- The reset state meets the invariant (R38); that `rsp_code` is a legal code there is the model's choice,
log entry 8. -/
def Obligations.ResetStateMeetsTheInvariant : Prop := State.reset.Inv

/-- Every step of the machine keeps the invariant, from every state that meets it: buffers in canonical
form, the chip-select window discipline of all events (R57, R114), `cs` as the framer's phase (R23), `idx +
cnt` constant (R24), `poll_cnt` within its bound (R26), legal response codes (R90; after a
reset the model's choice, log entry 8), and the valid bytes of RBUF held (R32). -/
def Obligations.EveryStepKeepsTheInvariant : Prop :=
  ∀ s t : State, s.Inv → step s = .next t → t.Inv
end

