-- ==== Sys2Proof/Laws/State.lean ====
section
/-! SUPPORT. Laws/State.lean: one lemma for each field of each shared update, so that no later proof
unfolds a record update. -/

namespace Sys2Proof.Machine

/-! ### Produce an event. -/

@[simp] theorem emit_ctl (e : Event) (s : State) : (emit e s).ctl = s.ctl := rfl
@[simp] theorem emit_frm (e : Event) (s : State) : (emit e s).frm = s.frm := rfl
@[simp] theorem emit_cs (e : Event) (s : State) : (emit e s).cs = s.cs := rfl
@[simp] theorem emit_hdr (e : Event) (s : State) : (emit e s).hdr = s.hdr := rfl
@[simp] theorem emit_cnt (e : Event) (s : State) : (emit e s).cnt = s.cnt := rfl
@[simp] theorem emit_idx (e : Event) (s : State) : (emit e s).idx = s.idx := rfl
@[simp] theorem emit_dir (e : Event) (s : State) : (emit e s).dir = s.dir := rfl
@[simp] theorem emit_ferr (e : Event) (s : State) : (emit e s).ferr = s.ferr := rfl
@[simp] theorem emit_cOp (e : Event) (s : State) : (emit e s).cOp = s.cOp := rfl
@[simp] theorem emit_cAddr (e : Event) (s : State) : (emit e s).cAddr = s.cAddr := rfl
@[simp] theorem emit_cLen (e : Event) (s : State) : (emit e s).cLen = s.cLen := rfl
@[simp] theorem emit_cLevel (e : Event) (s : State) : (emit e s).cLevel = s.cLevel := rfl
@[simp] theorem emit_tgtLevel (e : Event) (s : State) : (emit e s).tgtLevel = s.tgtLevel := rfl
@[simp] theorem emit_pollCnt (e : Event) (s : State) : (emit e s).pollCnt = s.pollCnt := rfl
@[simp] theorem emit_txstat (e : Event) (s : State) : (emit e s).txstat = s.txstat := rfl
@[simp] theorem emit_rspValid (e : Event) (s : State) : (emit e s).rspValid = s.rspValid := rfl
@[simp] theorem emit_rspCode (e : Event) (s : State) : (emit e s).rspCode = s.rspCode := rfl
@[simp] theorem emit_rspRlen (e : Event) (s : State) : (emit e s).rspRlen = s.rspRlen := rfl
@[simp] theorem emit_dbuf (e : Event) (s : State) : (emit e s).dbuf = s.dbuf := rfl
@[simp] theorem emit_rbuf (e : Event) (s : State) : (emit e s).rbuf = s.rbuf := rfl
@[simp] theorem emit_cfg (e : Event) (s : State) : (emit e s).cfg = s.cfg := rfl
@[simp] theorem emit_pa0 (e : Event) (s : State) : (emit e s).pa0 = s.pa0 := rfl
@[simp] theorem emit_sync (e : Event) (s : State) : (emit e s).sync = s.sync := rfl
@[simp] theorem emit_straps (e : Event) (s : State) : (emit e s).straps = s.straps := rfl
@[simp] theorem emit_ret (e : Event) (s : State) : (emit e s).ret = s.ret := rfl
@[simp] theorem emit_trace (e : Event) (s : State) : (emit e s).trace = s.trace ++ [e] := rfl
@[simp] theorem emit_hostIn (e : Event) (s : State) : (emit e s).hostIn = s.hostIn := rfl
@[simp] theorem emit_busIn (e : Event) (s : State) : (emit e s).busIn = s.busIn := rfl
@[simp] theorem emit_pinIn (e : Event) (s : State) : (emit e s).pinIn = s.pinIn := rfl
@[simp] theorem emit_draws (e : Event) (s : State) : (emit e s).draws = s.draws := rfl
@[simp] theorem emit_pace (e : Event) (s : State) : (emit e s).pace = s.pace := rfl

/-! ### Assert chip-select. -/

@[simp] theorem busAssert_ctl (s : State) : (busAssert s).ctl = s.ctl := rfl
@[simp] theorem busAssert_frm (s : State) : (busAssert s).frm = s.frm := rfl
@[simp] theorem busAssert_cs (s : State) : (busAssert s).cs = true := rfl
@[simp] theorem busAssert_hdr (s : State) : (busAssert s).hdr = s.hdr := rfl
@[simp] theorem busAssert_cnt (s : State) : (busAssert s).cnt = s.cnt := rfl
@[simp] theorem busAssert_idx (s : State) : (busAssert s).idx = s.idx := rfl
@[simp] theorem busAssert_dir (s : State) : (busAssert s).dir = s.dir := rfl
@[simp] theorem busAssert_ferr (s : State) : (busAssert s).ferr = s.ferr := rfl
@[simp] theorem busAssert_cOp (s : State) : (busAssert s).cOp = s.cOp := rfl
@[simp] theorem busAssert_cAddr (s : State) : (busAssert s).cAddr = s.cAddr := rfl
@[simp] theorem busAssert_cLen (s : State) : (busAssert s).cLen = s.cLen := rfl
@[simp] theorem busAssert_cLevel (s : State) : (busAssert s).cLevel = s.cLevel := rfl
@[simp] theorem busAssert_tgtLevel (s : State) : (busAssert s).tgtLevel = s.tgtLevel := rfl
@[simp] theorem busAssert_pollCnt (s : State) : (busAssert s).pollCnt = s.pollCnt := rfl
@[simp] theorem busAssert_txstat (s : State) : (busAssert s).txstat = s.txstat := rfl
@[simp] theorem busAssert_rspValid (s : State) : (busAssert s).rspValid = s.rspValid := rfl
@[simp] theorem busAssert_rspCode (s : State) : (busAssert s).rspCode = s.rspCode := rfl
@[simp] theorem busAssert_rspRlen (s : State) : (busAssert s).rspRlen = s.rspRlen := rfl
@[simp] theorem busAssert_dbuf (s : State) : (busAssert s).dbuf = s.dbuf := rfl
@[simp] theorem busAssert_rbuf (s : State) : (busAssert s).rbuf = s.rbuf := rfl
@[simp] theorem busAssert_cfg (s : State) : (busAssert s).cfg = s.cfg := rfl
@[simp] theorem busAssert_pa0 (s : State) : (busAssert s).pa0 = s.pa0 := rfl
@[simp] theorem busAssert_sync (s : State) : (busAssert s).sync = s.sync := rfl
@[simp] theorem busAssert_straps (s : State) : (busAssert s).straps = s.straps := rfl
@[simp] theorem busAssert_ret (s : State) : (busAssert s).ret = s.ret := rfl
@[simp] theorem busAssert_trace (s : State) : (busAssert s).trace = s.trace ++ [.csAssert] := rfl
@[simp] theorem busAssert_hostIn (s : State) : (busAssert s).hostIn = s.hostIn := rfl
@[simp] theorem busAssert_busIn (s : State) : (busAssert s).busIn = s.busIn := rfl
@[simp] theorem busAssert_pinIn (s : State) : (busAssert s).pinIn = s.pinIn := rfl
@[simp] theorem busAssert_draws (s : State) : (busAssert s).draws = s.draws := rfl
@[simp] theorem busAssert_pace (s : State) : (busAssert s).pace = s.pace := rfl

/-! ### Deassert chip-select. -/

@[simp] theorem busDeassert_ctl (s : State) : (busDeassert s).ctl = s.ctl := rfl
@[simp] theorem busDeassert_frm (s : State) : (busDeassert s).frm = s.frm := rfl
@[simp] theorem busDeassert_cs (s : State) : (busDeassert s).cs = false := rfl
@[simp] theorem busDeassert_hdr (s : State) : (busDeassert s).hdr = s.hdr := rfl
@[simp] theorem busDeassert_cnt (s : State) : (busDeassert s).cnt = s.cnt := rfl
@[simp] theorem busDeassert_idx (s : State) : (busDeassert s).idx = s.idx := rfl
@[simp] theorem busDeassert_dir (s : State) : (busDeassert s).dir = s.dir := rfl
@[simp] theorem busDeassert_ferr (s : State) : (busDeassert s).ferr = s.ferr := rfl
@[simp] theorem busDeassert_cOp (s : State) : (busDeassert s).cOp = s.cOp := rfl
@[simp] theorem busDeassert_cAddr (s : State) : (busDeassert s).cAddr = s.cAddr := rfl
@[simp] theorem busDeassert_cLen (s : State) : (busDeassert s).cLen = s.cLen := rfl
@[simp] theorem busDeassert_cLevel (s : State) : (busDeassert s).cLevel = s.cLevel := rfl
@[simp] theorem busDeassert_tgtLevel (s : State) : (busDeassert s).tgtLevel = s.tgtLevel := rfl
@[simp] theorem busDeassert_pollCnt (s : State) : (busDeassert s).pollCnt = s.pollCnt := rfl
@[simp] theorem busDeassert_txstat (s : State) : (busDeassert s).txstat = s.txstat := rfl
@[simp] theorem busDeassert_rspValid (s : State) : (busDeassert s).rspValid = s.rspValid := rfl
@[simp] theorem busDeassert_rspCode (s : State) : (busDeassert s).rspCode = s.rspCode := rfl
@[simp] theorem busDeassert_rspRlen (s : State) : (busDeassert s).rspRlen = s.rspRlen := rfl
@[simp] theorem busDeassert_dbuf (s : State) : (busDeassert s).dbuf = s.dbuf := rfl
@[simp] theorem busDeassert_rbuf (s : State) : (busDeassert s).rbuf = s.rbuf := rfl
@[simp] theorem busDeassert_cfg (s : State) : (busDeassert s).cfg = s.cfg := rfl
@[simp] theorem busDeassert_pa0 (s : State) : (busDeassert s).pa0 = s.pa0 := rfl
@[simp] theorem busDeassert_sync (s : State) : (busDeassert s).sync = s.sync := rfl
@[simp] theorem busDeassert_straps (s : State) : (busDeassert s).straps = s.straps := rfl
@[simp] theorem busDeassert_ret (s : State) : (busDeassert s).ret = s.ret := rfl
@[simp] theorem busDeassert_trace (s : State) : (busDeassert s).trace = s.trace ++ [.csDeassert] := rfl
@[simp] theorem busDeassert_hostIn (s : State) : (busDeassert s).hostIn = s.hostIn := rfl
@[simp] theorem busDeassert_busIn (s : State) : (busDeassert s).busIn = s.busIn := rfl
@[simp] theorem busDeassert_pinIn (s : State) : (busDeassert s).pinIn = s.pinIn := rfl
@[simp] theorem busDeassert_draws (s : State) : (busDeassert s).draws = s.draws := rfl
@[simp] theorem busDeassert_pace (s : State) : (busDeassert s).pace = s.pace := rfl

/-! ### Load an operation. -/

@[simp] theorem loadOp_ctl (o : OpArgs) (s : State) : (loadOp o s).ctl = s.ctl := rfl
@[simp] theorem loadOp_frm (o : OpArgs) (s : State) : (loadOp o s).frm = .sel := rfl
@[simp] theorem loadOp_cs (o : OpArgs) (s : State) : (loadOp o s).cs = s.cs := rfl
@[simp] theorem loadOp_hdr (o : OpArgs) (s : State) : (loadOp o s).hdr = frame (addrOperand o.addr) o.flag := rfl
@[simp] theorem loadOp_cnt (o : OpArgs) (s : State) : (loadOp o s).cnt = o.len := rfl
@[simp] theorem loadOp_idx (o : OpArgs) (s : State) : (loadOp o s).idx = 0 := rfl
@[simp] theorem loadOp_dir (o : OpArgs) (s : State) : (loadOp o s).dir = o.kind := rfl
@[simp] theorem loadOp_ferr (o : OpArgs) (s : State) : (loadOp o s).ferr = false := rfl
@[simp] theorem loadOp_cOp (o : OpArgs) (s : State) : (loadOp o s).cOp = s.cOp := rfl
@[simp] theorem loadOp_cAddr (o : OpArgs) (s : State) : (loadOp o s).cAddr = s.cAddr := rfl
@[simp] theorem loadOp_cLen (o : OpArgs) (s : State) : (loadOp o s).cLen = s.cLen := rfl
@[simp] theorem loadOp_cLevel (o : OpArgs) (s : State) : (loadOp o s).cLevel = s.cLevel := rfl
@[simp] theorem loadOp_tgtLevel (o : OpArgs) (s : State) : (loadOp o s).tgtLevel = s.tgtLevel := rfl
@[simp] theorem loadOp_pollCnt (o : OpArgs) (s : State) : (loadOp o s).pollCnt = s.pollCnt := rfl
@[simp] theorem loadOp_txstat (o : OpArgs) (s : State) : (loadOp o s).txstat = s.txstat := rfl
@[simp] theorem loadOp_rspValid (o : OpArgs) (s : State) : (loadOp o s).rspValid = s.rspValid := rfl
@[simp] theorem loadOp_rspCode (o : OpArgs) (s : State) : (loadOp o s).rspCode = s.rspCode := rfl
@[simp] theorem loadOp_rspRlen (o : OpArgs) (s : State) : (loadOp o s).rspRlen = s.rspRlen := rfl
@[simp] theorem loadOp_dbuf (o : OpArgs) (s : State) : (loadOp o s).dbuf = s.dbuf := rfl
@[simp] theorem loadOp_rbuf (o : OpArgs) (s : State) : (loadOp o s).rbuf = s.rbuf := rfl
@[simp] theorem loadOp_cfg (o : OpArgs) (s : State) : (loadOp o s).cfg = s.cfg := rfl
@[simp] theorem loadOp_pa0 (o : OpArgs) (s : State) : (loadOp o s).pa0 = s.pa0 := rfl
@[simp] theorem loadOp_sync (o : OpArgs) (s : State) : (loadOp o s).sync = s.sync := rfl
@[simp] theorem loadOp_straps (o : OpArgs) (s : State) : (loadOp o s).straps = s.straps := rfl
@[simp] theorem loadOp_ret (o : OpArgs) (s : State) : (loadOp o s).ret = s.ret := rfl
@[simp] theorem loadOp_trace (o : OpArgs) (s : State) : (loadOp o s).trace = s.trace := rfl
@[simp] theorem loadOp_hostIn (o : OpArgs) (s : State) : (loadOp o s).hostIn = s.hostIn := rfl
@[simp] theorem loadOp_busIn (o : OpArgs) (s : State) : (loadOp o s).busIn = s.busIn := rfl
@[simp] theorem loadOp_pinIn (o : OpArgs) (s : State) : (loadOp o s).pinIn = s.pinIn := rfl
@[simp] theorem loadOp_draws (o : OpArgs) (s : State) : (loadOp o s).draws = s.draws := rfl
@[simp] theorem loadOp_pace (o : OpArgs) (s : State) : (loadOp o s).pace = s.pace := rfl

/-! ### Post a response. -/

@[simp] theorem respond_ctl (k : RspKind) (n : Byte) (i : RspInfo) (s : State) : (respond k n i s).ctl = .ready := rfl
@[simp] theorem respond_frm (k : RspKind) (n : Byte) (i : RspInfo) (s : State) : (respond k n i s).frm = s.frm := rfl
@[simp] theorem respond_cs (k : RspKind) (n : Byte) (i : RspInfo) (s : State) : (respond k n i s).cs = s.cs := rfl
@[simp] theorem respond_hdr (k : RspKind) (n : Byte) (i : RspInfo) (s : State) : (respond k n i s).hdr = s.hdr := rfl
@[simp] theorem respond_cnt (k : RspKind) (n : Byte) (i : RspInfo) (s : State) : (respond k n i s).cnt = s.cnt := rfl
@[simp] theorem respond_idx (k : RspKind) (n : Byte) (i : RspInfo) (s : State) : (respond k n i s).idx = s.idx := rfl
@[simp] theorem respond_dir (k : RspKind) (n : Byte) (i : RspInfo) (s : State) : (respond k n i s).dir = s.dir := rfl
@[simp] theorem respond_ferr (k : RspKind) (n : Byte) (i : RspInfo) (s : State) : (respond k n i s).ferr = s.ferr := rfl
@[simp] theorem respond_cOp (k : RspKind) (n : Byte) (i : RspInfo) (s : State) : (respond k n i s).cOp = s.cOp := rfl
@[simp] theorem respond_cAddr (k : RspKind) (n : Byte) (i : RspInfo) (s : State) : (respond k n i s).cAddr = s.cAddr := rfl
@[simp] theorem respond_cLen (k : RspKind) (n : Byte) (i : RspInfo) (s : State) : (respond k n i s).cLen = s.cLen := rfl
@[simp] theorem respond_cLevel (k : RspKind) (n : Byte) (i : RspInfo) (s : State) : (respond k n i s).cLevel = s.cLevel := rfl
@[simp] theorem respond_tgtLevel (k : RspKind) (n : Byte) (i : RspInfo) (s : State) : (respond k n i s).tgtLevel = s.tgtLevel := rfl
@[simp] theorem respond_pollCnt (k : RspKind) (n : Byte) (i : RspInfo) (s : State) : (respond k n i s).pollCnt = s.pollCnt := rfl
@[simp] theorem respond_txstat (k : RspKind) (n : Byte) (i : RspInfo) (s : State) : (respond k n i s).txstat = s.txstat := rfl
@[simp] theorem respond_rspValid (k : RspKind) (n : Byte) (i : RspInfo) (s : State) : (respond k n i s).rspValid = true := rfl
@[simp] theorem respond_rspCode (k : RspKind) (n : Byte) (i : RspInfo) (s : State) : (respond k n i s).rspCode = RspKind.code k := rfl
@[simp] theorem respond_rspRlen (k : RspKind) (n : Byte) (i : RspInfo) (s : State) : (respond k n i s).rspRlen = n := rfl
@[simp] theorem respond_dbuf (k : RspKind) (n : Byte) (i : RspInfo) (s : State) : (respond k n i s).dbuf = s.dbuf := rfl
@[simp] theorem respond_rbuf (k : RspKind) (n : Byte) (i : RspInfo) (s : State) : (respond k n i s).rbuf = s.rbuf := rfl
@[simp] theorem respond_cfg (k : RspKind) (n : Byte) (i : RspInfo) (s : State) : (respond k n i s).cfg = s.cfg := rfl
@[simp] theorem respond_pa0 (k : RspKind) (n : Byte) (i : RspInfo) (s : State) : (respond k n i s).pa0 = s.pa0 := rfl
@[simp] theorem respond_sync (k : RspKind) (n : Byte) (i : RspInfo) (s : State) : (respond k n i s).sync = s.sync := rfl
@[simp] theorem respond_straps (k : RspKind) (n : Byte) (i : RspInfo) (s : State) : (respond k n i s).straps = s.straps := rfl
@[simp] theorem respond_ret (k : RspKind) (n : Byte) (i : RspInfo) (s : State) : (respond k n i s).ret = none := rfl
@[simp] theorem respond_trace (k : RspKind) (n : Byte) (i : RspInfo) (s : State) : (respond k n i s).trace = s.trace ++ [.rsp k i] := rfl
@[simp] theorem respond_hostIn (k : RspKind) (n : Byte) (i : RspInfo) (s : State) : (respond k n i s).hostIn = s.hostIn := rfl
@[simp] theorem respond_busIn (k : RspKind) (n : Byte) (i : RspInfo) (s : State) : (respond k n i s).busIn = s.busIn := rfl
@[simp] theorem respond_pinIn (k : RspKind) (n : Byte) (i : RspInfo) (s : State) : (respond k n i s).pinIn = s.pinIn := rfl
@[simp] theorem respond_draws (k : RspKind) (n : Byte) (i : RspInfo) (s : State) : (respond k n i s).draws = s.draws := rfl
@[simp] theorem respond_pace (k : RspKind) (n : Byte) (i : RspInfo) (s : State) : (respond k n i s).pace = s.pace := rfl

/-! ### Abort a command. -/

@[simp] theorem abort_ctl (k : RspKind) (s : State) : (abort k s).ctl = .ready := rfl
@[simp] theorem abort_frm (k : RspKind) (s : State) : (abort k s).frm = s.frm := rfl
@[simp] theorem abort_cs (k : RspKind) (s : State) : (abort k s).cs = s.cs := rfl
@[simp] theorem abort_hdr (k : RspKind) (s : State) : (abort k s).hdr = s.hdr := rfl
@[simp] theorem abort_cnt (k : RspKind) (s : State) : (abort k s).cnt = s.cnt := rfl
@[simp] theorem abort_idx (k : RspKind) (s : State) : (abort k s).idx = s.idx := rfl
@[simp] theorem abort_dir (k : RspKind) (s : State) : (abort k s).dir = s.dir := rfl
@[simp] theorem abort_ferr (k : RspKind) (s : State) : (abort k s).ferr = s.ferr := rfl
@[simp] theorem abort_cOp (k : RspKind) (s : State) : (abort k s).cOp = s.cOp := rfl
@[simp] theorem abort_cAddr (k : RspKind) (s : State) : (abort k s).cAddr = s.cAddr := rfl
@[simp] theorem abort_cLen (k : RspKind) (s : State) : (abort k s).cLen = s.cLen := rfl
@[simp] theorem abort_cLevel (k : RspKind) (s : State) : (abort k s).cLevel = s.cLevel := rfl
@[simp] theorem abort_tgtLevel (k : RspKind) (s : State) : (abort k s).tgtLevel = s.tgtLevel := rfl
@[simp] theorem abort_pollCnt (k : RspKind) (s : State) : (abort k s).pollCnt = s.pollCnt := rfl
@[simp] theorem abort_txstat (k : RspKind) (s : State) : (abort k s).txstat = Config.freeTxstat s.draws := rfl
@[simp] theorem abort_rspValid (k : RspKind) (s : State) : (abort k s).rspValid = true := rfl
@[simp] theorem abort_rspCode (k : RspKind) (s : State) : (abort k s).rspCode = RspKind.code k := rfl
@[simp] theorem abort_rspRlen (k : RspKind) (s : State) : (abort k s).rspRlen = 0 := rfl
@[simp] theorem abort_dbuf (k : RspKind) (s : State) : (abort k s).dbuf = s.dbuf := rfl
@[simp] theorem abort_rbuf (k : RspKind) (s : State) : (abort k s).rbuf = [] := rfl
@[simp] theorem abort_cfg (k : RspKind) (s : State) : (abort k s).cfg = s.cfg := rfl
@[simp] theorem abort_pa0 (k : RspKind) (s : State) : (abort k s).pa0 = s.pa0 := rfl
@[simp] theorem abort_sync (k : RspKind) (s : State) : (abort k s).sync = s.sync := rfl
@[simp] theorem abort_straps (k : RspKind) (s : State) : (abort k s).straps = s.straps := rfl
@[simp] theorem abort_ret (k : RspKind) (s : State) : (abort k s).ret = none := rfl
@[simp] theorem abort_trace (k : RspKind) (s : State) : (abort k s).trace = s.trace ++ [.rsp k .none] := rfl
@[simp] theorem abort_hostIn (k : RspKind) (s : State) : (abort k s).hostIn = s.hostIn := rfl
@[simp] theorem abort_busIn (k : RspKind) (s : State) : (abort k s).busIn = s.busIn := rfl
@[simp] theorem abort_pinIn (k : RspKind) (s : State) : (abort k s).pinIn = s.pinIn := rfl
@[simp] theorem abort_draws (k : RspKind) (s : State) : (abort k s).draws = s.draws + 1 := rfl
@[simp] theorem abort_pace (k : RspKind) (s : State) : (abort k s).pace = s.pace := rfl

/-! ### Start a wait. -/

@[simp] theorem startWait_ctl (v : Level) (s : State) : (startWait v s).ctl = s.ctl := rfl
@[simp] theorem startWait_frm (v : Level) (s : State) : (startWait v s).frm = s.frm := rfl
@[simp] theorem startWait_cs (v : Level) (s : State) : (startWait v s).cs = s.cs := rfl
@[simp] theorem startWait_hdr (v : Level) (s : State) : (startWait v s).hdr = s.hdr := rfl
@[simp] theorem startWait_cnt (v : Level) (s : State) : (startWait v s).cnt = s.cnt := rfl
@[simp] theorem startWait_idx (v : Level) (s : State) : (startWait v s).idx = s.idx := rfl
@[simp] theorem startWait_dir (v : Level) (s : State) : (startWait v s).dir = s.dir := rfl
@[simp] theorem startWait_ferr (v : Level) (s : State) : (startWait v s).ferr = s.ferr := rfl
@[simp] theorem startWait_cOp (v : Level) (s : State) : (startWait v s).cOp = s.cOp := rfl
@[simp] theorem startWait_cAddr (v : Level) (s : State) : (startWait v s).cAddr = s.cAddr := rfl
@[simp] theorem startWait_cLen (v : Level) (s : State) : (startWait v s).cLen = s.cLen := rfl
@[simp] theorem startWait_cLevel (v : Level) (s : State) : (startWait v s).cLevel = s.cLevel := rfl
@[simp] theorem startWait_tgtLevel (v : Level) (s : State) : (startWait v s).tgtLevel = v := rfl
@[simp] theorem startWait_pollCnt (v : Level) (s : State) : (startWait v s).pollCnt = 0 := rfl
@[simp] theorem startWait_txstat (v : Level) (s : State) : (startWait v s).txstat = s.txstat := rfl
@[simp] theorem startWait_rspValid (v : Level) (s : State) : (startWait v s).rspValid = s.rspValid := rfl
@[simp] theorem startWait_rspCode (v : Level) (s : State) : (startWait v s).rspCode = s.rspCode := rfl
@[simp] theorem startWait_rspRlen (v : Level) (s : State) : (startWait v s).rspRlen = s.rspRlen := rfl
@[simp] theorem startWait_dbuf (v : Level) (s : State) : (startWait v s).dbuf = s.dbuf := rfl
@[simp] theorem startWait_rbuf (v : Level) (s : State) : (startWait v s).rbuf = s.rbuf := rfl
@[simp] theorem startWait_cfg (v : Level) (s : State) : (startWait v s).cfg = s.cfg := rfl
@[simp] theorem startWait_pa0 (v : Level) (s : State) : (startWait v s).pa0 = s.pa0 := rfl
@[simp] theorem startWait_sync (v : Level) (s : State) : (startWait v s).sync = s.sync := rfl
@[simp] theorem startWait_straps (v : Level) (s : State) : (startWait v s).straps = s.straps := rfl
@[simp] theorem startWait_ret (v : Level) (s : State) : (startWait v s).ret = s.ret := rfl
@[simp] theorem startWait_trace (v : Level) (s : State) : (startWait v s).trace = s.trace := rfl
@[simp] theorem startWait_hostIn (v : Level) (s : State) : (startWait v s).hostIn = s.hostIn := rfl
@[simp] theorem startWait_busIn (v : Level) (s : State) : (startWait v s).busIn = s.busIn := rfl
@[simp] theorem startWait_pinIn (v : Level) (s : State) : (startWait v s).pinIn = s.pinIn := rfl
@[simp] theorem startWait_draws (v : Level) (s : State) : (startWait v s).draws = s.draws := rfl
@[simp] theorem startWait_pace (v : Level) (s : State) : (startWait v s).pace = s.pace := rfl

/-! ### Accept a command. -/

@[simp] theorem accept_ctl (op : BitVec 3) (c : Ctl) (s : State) : (accept op c s).ctl = c := rfl
@[simp] theorem accept_frm (op : BitVec 3) (c : Ctl) (s : State) : (accept op c s).frm = .idle := rfl
@[simp] theorem accept_cs (op : BitVec 3) (c : Ctl) (s : State) : (accept op c s).cs = s.cs := rfl
@[simp] theorem accept_hdr (op : BitVec 3) (c : Ctl) (s : State) : (accept op c s).hdr = s.hdr := rfl
@[simp] theorem accept_cnt (op : BitVec 3) (c : Ctl) (s : State) : (accept op c s).cnt = s.cnt := rfl
@[simp] theorem accept_idx (op : BitVec 3) (c : Ctl) (s : State) : (accept op c s).idx = s.idx := rfl
@[simp] theorem accept_dir (op : BitVec 3) (c : Ctl) (s : State) : (accept op c s).dir = s.dir := rfl
@[simp] theorem accept_ferr (op : BitVec 3) (c : Ctl) (s : State) : (accept op c s).ferr = s.ferr := rfl
@[simp] theorem accept_cOp (op : BitVec 3) (c : Ctl) (s : State) : (accept op c s).cOp = op := rfl
@[simp] theorem accept_cAddr (op : BitVec 3) (c : Ctl) (s : State) : (accept op c s).cAddr = s.cAddr := rfl
@[simp] theorem accept_cLen (op : BitVec 3) (c : Ctl) (s : State) : (accept op c s).cLen = s.cLen := rfl
@[simp] theorem accept_cLevel (op : BitVec 3) (c : Ctl) (s : State) : (accept op c s).cLevel = s.cLevel := rfl
@[simp] theorem accept_tgtLevel (op : BitVec 3) (c : Ctl) (s : State) : (accept op c s).tgtLevel = s.tgtLevel := rfl
@[simp] theorem accept_pollCnt (op : BitVec 3) (c : Ctl) (s : State) : (accept op c s).pollCnt = s.pollCnt := rfl
@[simp] theorem accept_txstat (op : BitVec 3) (c : Ctl) (s : State) : (accept op c s).txstat = s.txstat := rfl
@[simp] theorem accept_rspValid (op : BitVec 3) (c : Ctl) (s : State) : (accept op c s).rspValid = false := rfl
@[simp] theorem accept_rspCode (op : BitVec 3) (c : Ctl) (s : State) : (accept op c s).rspCode = s.rspCode := rfl
@[simp] theorem accept_rspRlen (op : BitVec 3) (c : Ctl) (s : State) : (accept op c s).rspRlen = s.rspRlen := rfl
@[simp] theorem accept_dbuf (op : BitVec 3) (c : Ctl) (s : State) : (accept op c s).dbuf = s.dbuf := rfl
@[simp] theorem accept_rbuf (op : BitVec 3) (c : Ctl) (s : State) : (accept op c s).rbuf = s.rbuf := rfl
@[simp] theorem accept_cfg (op : BitVec 3) (c : Ctl) (s : State) : (accept op c s).cfg = s.cfg := rfl
@[simp] theorem accept_pa0 (op : BitVec 3) (c : Ctl) (s : State) : (accept op c s).pa0 = s.pa0 := rfl
@[simp] theorem accept_sync (op : BitVec 3) (c : Ctl) (s : State) : (accept op c s).sync = s.sync := rfl
@[simp] theorem accept_straps (op : BitVec 3) (c : Ctl) (s : State) : (accept op c s).straps = s.straps := rfl
@[simp] theorem accept_ret (op : BitVec 3) (c : Ctl) (s : State) : (accept op c s).ret = none := rfl
@[simp] theorem accept_trace (op : BitVec 3) (c : Ctl) (s : State) : (accept op c s).trace = s.trace := rfl
@[simp] theorem accept_hostIn (op : BitVec 3) (c : Ctl) (s : State) : (accept op c s).hostIn = s.hostIn := rfl
@[simp] theorem accept_busIn (op : BitVec 3) (c : Ctl) (s : State) : (accept op c s).busIn = s.busIn := rfl
@[simp] theorem accept_pinIn (op : BitVec 3) (c : Ctl) (s : State) : (accept op c s).pinIn = s.pinIn := rfl
@[simp] theorem accept_draws (op : BitVec 3) (c : Ctl) (s : State) : (accept op c s).draws = s.draws := rfl
@[simp] theorem accept_pace (op : BitVec 3) (c : Ctl) (s : State) : (accept op c s).pace = s.pace := rfl

/-! ### Take the host's move. -/

@[simp] theorem takeMove_ctl (s : State) : (takeMove s).ctl = s.ctl := rfl
@[simp] theorem takeMove_frm (s : State) : (takeMove s).frm = s.frm := rfl
@[simp] theorem takeMove_cs (s : State) : (takeMove s).cs = s.cs := rfl
@[simp] theorem takeMove_hdr (s : State) : (takeMove s).hdr = s.hdr := rfl
@[simp] theorem takeMove_cnt (s : State) : (takeMove s).cnt = s.cnt := rfl
@[simp] theorem takeMove_idx (s : State) : (takeMove s).idx = s.idx := rfl
@[simp] theorem takeMove_dir (s : State) : (takeMove s).dir = s.dir := rfl
@[simp] theorem takeMove_ferr (s : State) : (takeMove s).ferr = s.ferr := rfl
@[simp] theorem takeMove_cOp (s : State) : (takeMove s).cOp = s.cOp := rfl
@[simp] theorem takeMove_cAddr (s : State) : (takeMove s).cAddr = s.cAddr := rfl
@[simp] theorem takeMove_cLen (s : State) : (takeMove s).cLen = s.cLen := rfl
@[simp] theorem takeMove_cLevel (s : State) : (takeMove s).cLevel = s.cLevel := rfl
@[simp] theorem takeMove_tgtLevel (s : State) : (takeMove s).tgtLevel = s.tgtLevel := rfl
@[simp] theorem takeMove_pollCnt (s : State) : (takeMove s).pollCnt = s.pollCnt := rfl
@[simp] theorem takeMove_txstat (s : State) : (takeMove s).txstat = s.txstat := rfl
@[simp] theorem takeMove_rspValid (s : State) : (takeMove s).rspValid = s.rspValid := rfl
@[simp] theorem takeMove_rspCode (s : State) : (takeMove s).rspCode = s.rspCode := rfl
@[simp] theorem takeMove_rspRlen (s : State) : (takeMove s).rspRlen = s.rspRlen := rfl
@[simp] theorem takeMove_dbuf (s : State) : (takeMove s).dbuf = s.dbuf := rfl
@[simp] theorem takeMove_rbuf (s : State) : (takeMove s).rbuf = s.rbuf := rfl
@[simp] theorem takeMove_cfg (s : State) : (takeMove s).cfg = s.cfg := rfl
@[simp] theorem takeMove_pa0 (s : State) : (takeMove s).pa0 = s.pa0 := rfl
@[simp] theorem takeMove_sync (s : State) : (takeMove s).sync = s.sync := rfl
@[simp] theorem takeMove_straps (s : State) : (takeMove s).straps = s.straps := rfl
@[simp] theorem takeMove_ret (s : State) : (takeMove s).ret = s.ret := rfl
@[simp] theorem takeMove_trace (s : State) : (takeMove s).trace = s.trace := rfl
@[simp] theorem takeMove_hostIn (s : State) : (takeMove s).hostIn = s.hostIn.tail := rfl
@[simp] theorem takeMove_busIn (s : State) : (takeMove s).busIn = s.busIn := rfl
@[simp] theorem takeMove_pinIn (s : State) : (takeMove s).pinIn = s.pinIn := rfl
@[simp] theorem takeMove_draws (s : State) : (takeMove s).draws = s.draws := rfl
@[simp] theorem takeMove_pace (s : State) : (takeMove s).pace = s.pace := rfl

/-! ### Latch the port's record. -/

@[simp] theorem latchRecord_ctl (w : PortWord) (s : State) : (latchRecord w s).ctl = s.ctl := rfl
@[simp] theorem latchRecord_frm (w : PortWord) (s : State) : (latchRecord w s).frm = s.frm := rfl
@[simp] theorem latchRecord_cs (w : PortWord) (s : State) : (latchRecord w s).cs = s.cs := rfl
@[simp] theorem latchRecord_hdr (w : PortWord) (s : State) : (latchRecord w s).hdr = s.hdr := rfl
@[simp] theorem latchRecord_cnt (w : PortWord) (s : State) : (latchRecord w s).cnt = s.cnt := rfl
@[simp] theorem latchRecord_idx (w : PortWord) (s : State) : (latchRecord w s).idx = s.idx := rfl
@[simp] theorem latchRecord_dir (w : PortWord) (s : State) : (latchRecord w s).dir = s.dir := rfl
@[simp] theorem latchRecord_ferr (w : PortWord) (s : State) : (latchRecord w s).ferr = s.ferr := rfl
@[simp] theorem latchRecord_cOp (w : PortWord) (s : State) : (latchRecord w s).cOp = w.opField := rfl
@[simp] theorem latchRecord_cAddr (w : PortWord) (s : State) : (latchRecord w s).cAddr = w.addrField := rfl
@[simp] theorem latchRecord_cLen (w : PortWord) (s : State) : (latchRecord w s).cLen = w.lenField := rfl
@[simp] theorem latchRecord_cLevel (w : PortWord) (s : State) : (latchRecord w s).cLevel = w.levelField := rfl
@[simp] theorem latchRecord_tgtLevel (w : PortWord) (s : State) : (latchRecord w s).tgtLevel = s.tgtLevel := rfl
@[simp] theorem latchRecord_pollCnt (w : PortWord) (s : State) : (latchRecord w s).pollCnt = s.pollCnt := rfl
@[simp] theorem latchRecord_txstat (w : PortWord) (s : State) : (latchRecord w s).txstat = s.txstat := rfl
@[simp] theorem latchRecord_rspValid (w : PortWord) (s : State) : (latchRecord w s).rspValid = s.rspValid := rfl
@[simp] theorem latchRecord_rspCode (w : PortWord) (s : State) : (latchRecord w s).rspCode = s.rspCode := rfl
@[simp] theorem latchRecord_rspRlen (w : PortWord) (s : State) : (latchRecord w s).rspRlen = s.rspRlen := rfl
@[simp] theorem latchRecord_dbuf (w : PortWord) (s : State) : (latchRecord w s).dbuf = s.dbuf := rfl
@[simp] theorem latchRecord_rbuf (w : PortWord) (s : State) : (latchRecord w s).rbuf = s.rbuf := rfl
@[simp] theorem latchRecord_cfg (w : PortWord) (s : State) : (latchRecord w s).cfg = s.cfg := rfl
@[simp] theorem latchRecord_pa0 (w : PortWord) (s : State) : (latchRecord w s).pa0 = s.pa0 := rfl
@[simp] theorem latchRecord_sync (w : PortWord) (s : State) : (latchRecord w s).sync = s.sync := rfl
@[simp] theorem latchRecord_straps (w : PortWord) (s : State) : (latchRecord w s).straps = s.straps := rfl
@[simp] theorem latchRecord_ret (w : PortWord) (s : State) : (latchRecord w s).ret = s.ret := rfl
@[simp] theorem latchRecord_trace (w : PortWord) (s : State) : (latchRecord w s).trace = s.trace := rfl
@[simp] theorem latchRecord_hostIn (w : PortWord) (s : State) : (latchRecord w s).hostIn = s.hostIn := rfl
@[simp] theorem latchRecord_busIn (w : PortWord) (s : State) : (latchRecord w s).busIn = s.busIn := rfl
@[simp] theorem latchRecord_pinIn (w : PortWord) (s : State) : (latchRecord w s).pinIn = s.pinIn := rfl
@[simp] theorem latchRecord_draws (w : PortWord) (s : State) : (latchRecord w s).draws = s.draws := rfl
@[simp] theorem latchRecord_pace (w : PortWord) (s : State) : (latchRecord w s).pace = s.pace := rfl

end Sys2Proof.Machine
end

