-- ==== Sys2Proof/Laws/Tick.lean ====
section
/-! SUPPORT. Laws/Tick.lean: the small step, case by case, and what every small step leaves alone. -/

namespace Sys2Proof.Machine

/-! ## The small step by the state it is taken in -/

theorem tick_of_ret {s : State} {r : Ret} (h : s.ret = some r) : tick s = onReturn r s := by
  simp [tick, h]

theorem tick_of_idle {s : State} (h : s.ret = none) (hf : s.frm = .idle) : tick s = ctlIdle s := by
  simp [tick, h, hf]

theorem tick_of_sel {s : State} (h : s.ret = none) (hf : s.frm = .sel) : tick s = frmSel s := by
  simp [tick, h, hf]

theorem tick_of_hdr {s : State} (h : s.ret = none) (hf : s.frm = .hdr) : tick s = frmHdr s := by
  simp [tick, h, hf]

theorem tick_of_data {s : State} (h : s.ret = none) (hf : s.frm = .data) : tick s = frmData s := by
  simp [tick, h, hf]

theorem tick_of_desel {s : State} (h : s.ret = none) (hf : s.frm = .desel) :
    tick s = frmDesel s := by
  simp [tick, h, hf]

/-- Every small step is one of these (R110, R152, R178). -/
theorem tick_cases (s : State) :
    (∃ r, s.ret = some r ∧ tick s = onReturn r s) ∨
    (s.ret = none ∧ s.frm = .idle ∧ tick s = ctlIdle s) ∨
    (s.ret = none ∧ s.frm = .sel ∧ tick s = frmSel s) ∨
    (s.ret = none ∧ s.frm = .hdr ∧ tick s = frmHdr s) ∨
    (s.ret = none ∧ s.frm = .data ∧ tick s = frmData s) ∨
    (s.ret = none ∧ s.frm = .desel ∧ tick s = frmDesel s) := by
  cases hr : s.ret with
  | some r => exact .inl ⟨r, rfl, tick_of_ret hr⟩
  | none =>
    cases hf : s.frm with
    | idle => exact .inr (.inl ⟨rfl, rfl, tick_of_idle hr hf⟩)
    | sel => exact .inr (.inr (.inl ⟨rfl, rfl, tick_of_sel hr hf⟩))
    | hdr => exact .inr (.inr (.inr (.inl ⟨rfl, rfl, tick_of_hdr hr hf⟩)))
    | data => exact .inr (.inr (.inr (.inr (.inl ⟨rfl, rfl, tick_of_data hr hf⟩))))
    | desel => exact .inr (.inr (.inr (.inr (.inr ⟨rfl, rfl, tick_of_desel hr hf⟩))))

/-- In `C_READY` with nothing in flight a small step does nothing (R38). -/
theorem tick_of_ready {s : State} (hc : s.ctl = .ready) (hf : s.frm = .idle) (hr : s.ret = none) :
    tick s = s := by
  simp [tick_of_idle hr hf, ctlIdle, hc, opArgs]

@[simp] theorem advance_zero (s : State) : advance 0 s = s := rfl

theorem advance_succ (n : Nat) (s : State) : advance (n + 1) s = advance n (tick s) := rfl

theorem advance_add (m n : Nat) (s : State) : advance (m + n) s = advance n (advance m s) := by
  induction m generalizing s with
  | zero => simp
  | succ m ih => rw [Nat.succ_add]; exact ih (tick s)

/-- A block at rest stays at rest. -/
theorem advance_of_ready {s : State} (hc : s.ctl = .ready) (hf : s.frm = .idle) (hr : s.ret = none)
    (n : Nat) : advance n s = s := by
  induction n with
  | zero => rfl
  | succ n ih => rw [advance_succ, tick_of_ready hc hf hr, ih]

/-- What every small step keeps, every run of small steps keeps. -/
theorem advance_keeps {P : State → Prop} (h : ∀ s, P s → P (tick s)) (n : Nat) {s : State}
    (hs : P s) : P (advance n s) := by
  induction n generalizing s with
  | zero => exact hs
  | succ n ih => exact ih (h s hs)

/-! ## What a small step leaves alone -/

/-- Two states agree on what no small step writes: DBUF, the constants, the straps, the command latches,
the host's moves and the pace (R25, R30, R31, R33, R34). -/
structure SameCommand (s t : State) : Prop where
  dbuf : t.dbuf = s.dbuf
  cfg : t.cfg = s.cfg
  pa0 : t.pa0 = s.pa0
  straps : t.straps = s.straps
  cOp : t.cOp = s.cOp
  cAddr : t.cAddr = s.cAddr
  cLen : t.cLen = s.cLen
  cLevel : t.cLevel = s.cLevel
  hostIn : t.hostIn = s.hostIn
  pace : t.pace = s.pace

theorem SameCommand.rfl' (s : State) : SameCommand s s := by constructor <;> rfl

theorem SameCommand.trans {s t u : State} (h : SameCommand s t) (k : SameCommand t u) :
    SameCommand s u :=
  ⟨k.dbuf.trans h.dbuf, k.cfg.trans h.cfg, k.pa0.trans h.pa0, k.straps.trans h.straps,
    k.cOp.trans h.cOp, k.cAddr.trans h.cAddr, k.cLen.trans h.cLen, k.cLevel.trans h.cLevel,
    k.hostIn.trans h.hostIn, k.pace.trans h.pace⟩

theorem sameCommand_nextBusAnswer (s : State) : SameCommand s (nextBusAnswer s).2 := by
  unfold nextBusAnswer; split <;> constructor <;> rfl

theorem sameCommand_emit (e : Event) (s : State) : SameCommand s (emit e s) := by
  constructor <;> rfl

theorem sameCommand_busExchange (out : Byte) (s : State) : SameCommand s (busExchange out s).2 :=
  (sameCommand_nextBusAnswer s).trans (sameCommand_emit _ _)

theorem sameCommand_readOrFree (m : Memory) (i : Nat) (s : State) :
    SameCommand s (readOrFree m i s).2 := by
  unfold readOrFree; split <;> constructor <;> rfl

theorem sameCommand_outByte (s : State) : SameCommand s (outByte s).2 := by
  unfold outByte
  split
  · unfold srcByte
    split <;> first
      | exact .rfl' s
      | exact sameCommand_readOrFree _ _ s
      | (unfold cfgByte; split <;> constructor <;> rfl)
  · exact .rfl' s
  · exact .rfl' s

theorem sameCommand_storeReceived (b : Byte) (s : State) : SameCommand s (storeReceived b s) := by
  unfold storeReceived; split <;> constructor <;> rfl

theorem sameCommand_nextPinLevel (s : State) : SameCommand s (nextPinLevel s) := by
  unfold nextPinLevel; split <;> constructor <;> rfl

theorem sameCommand_pollSample (s : State) : SameCommand s (pollSample s) := by
  refine SameCommand.trans (t := (readPin s).2)
    ((sameCommand_nextPinLevel s).trans (sameCommand_emit _ _)) ?_
  unfold pollSample afterSample countMismatch
  split
  · constructor <;> rfl
  · split <;> constructor <;> rfl

theorem sameCommand_frmHdr (s : State) : SameCommand s (frmHdr s) := by
  refine (sameCommand_busExchange s.hdr s).trans ?_
  unfold frmHdr afterHdr
  split <;> constructor <;> rfl

theorem sameCommand_frmData (s : State) : SameCommand s (frmData s) := by
  refine ((sameCommand_outByte s).trans (sameCommand_busExchange (outByte s).1 _)).trans ?_
  unfold frmData afterData
  split
  · rename_i received _
    refine (sameCommand_storeReceived received _).trans ?_
    constructor <;> rfl
  · constructor <;> rfl

theorem sameCommand_txStatusDone (s : State) : SameCommand s (txStatusDone s) := by
  refine (sameCommand_readOrFree s.rbuf 0 s).trans ?_
  constructor <;> rfl

theorem sameCommand_afterOk (s : State) : SameCommand s (afterOk s) := by
  unfold afterOk
  split <;> first
    | exact sameCommand_txStatusDone s
    | (unfold primDone; split <;> constructor <;> rfl)
    | (unfold enterTxWait; split <;> constructor <;> rfl)
    | (constructor <;> rfl)

theorem sameCommand_ctlIdle (s : State) : SameCommand s (ctlIdle s) := by
  have hop : SameCommand s (match opArgs s with | some o => loadOp o s | none => s) := by
    split <;> constructor <;> rfl
  unfold ctlIdle
  split <;> first
    | exact sameCommand_pollSample s
    | (unfold completionWait; split <;> first
        | exact sameCommand_pollSample s
        | (constructor <;> rfl))
    | exact hop
    | (constructor <;> rfl)

theorem sameCommand_onReturn (r : Ret) (s : State) : SameCommand s (onReturn r s) := by
  cases r with
  | ok =>
    refine SameCommand.trans (t := { s with ret := none }) ?_ (sameCommand_afterOk _)
    constructor <;> rfl
  | busFault => constructor <;> rfl
  | timeout => constructor <;> rfl

/-- No small step writes DBUF, a constant, a strap, a latch, the host's moves or the pace. -/
theorem sameCommand_tick (s : State) : SameCommand s (tick s) := by
  obtain ⟨r, -, h⟩ | ⟨-, -, h⟩ | ⟨-, -, h⟩ | ⟨-, -, h⟩ | ⟨-, -, h⟩ | ⟨-, -, h⟩ := tick_cases s <;>
    rw [h]
  · exact sameCommand_onReturn r s
  · exact sameCommand_ctlIdle s
  · constructor <;> rfl
  · exact sameCommand_frmHdr s
  · exact sameCommand_frmData s
  · constructor <;> rfl

theorem sameCommand_advance (n : Nat) (s : State) : SameCommand s (advance n s) := by
  induction n generalizing s with
  | zero => exact .rfl' s
  | succ n ih => exact (sameCommand_tick s).trans (ih (tick s))

end Sys2Proof.Machine
end

