-- ==== Sys2Proof/Laws/Inversion.lean ====
section
/-! SUPPORT. Laws/Inversion.lean: everything each shared operation can do, whatever the BUS and PIN agents
answer. Later proofs cite these and never unfold an operation. -/

namespace Sys2Proof.Machine

/-- A byte read from a buffer: only the counter of the free values may move. -/
theorem readOrFree_eq (m : Memory) (i : Nat) (s : State) :
    ∃ v d, readOrFree m i s = (v, { s with draws := d }) ∧ ∀ b, Memory.read m i = some b → v = b := by
  unfold readOrFree
  split
  · rename_i b h; exact ⟨b, s.draws, rfl, fun c hc => by simp_all⟩
  · rename_i h; exact ⟨_, s.draws + 1, rfl, fun c hc => by simp_all⟩

/-- The byte to send: only the counter of the free values may move. -/
theorem outByte_eq (s : State) :
    ∃ v d, outByte s = (v, { s with draws := d }) ∧ (s.dir ≠ .wr → v = Config.dummy) := by
  have hsrc : ∃ v d, srcByte s = (v, { s with draws := d }) := by
    unfold srcByte
    split <;> first
      | exact ⟨s.pa0, s.draws, rfl⟩
      | (unfold cfgByte; split <;> first | exact ⟨_, s.draws, rfl⟩ | exact ⟨_, s.draws + 1, rfl⟩)
      | exact (readOrFree_eq s.dbuf s.idx.toNat s).imp fun v h => h.imp fun d h => h.1
  unfold outByte
  split
  · rename_i h
    obtain ⟨v, d, hv⟩ := hsrc
    exact ⟨v, d, hv, fun hn => absurd h hn⟩
  · exact ⟨_, s.draws, rfl, fun _ => rfl⟩
  · exact ⟨_, s.draws, rfl, fun _ => rfl⟩

/-- An exchange: an answer, its event, and what is left of the inputs. -/
theorem busExchange_eq (out : Byte) (s : State) :
    ∃ a b d, busExchange out s =
      (a, { s with busIn := b, draws := d, trace := s.trace ++ [exchangeEvent out a] }) := by
  unfold busExchange nextBusAnswer
  split
  · exact ⟨_, _, s.draws, rfl⟩
  · rename_i h
    exact ⟨Config.freeBus s.draws, [], s.draws + 1, by simp [emit, h]⟩

/-- A sample: a level, its event, and what is left of the inputs. -/
theorem readPin_eq (s : State) :
    ∃ v p ff0 d, readPin s =
      (v, { s with pinIn := p, sync := ⟨ff0, v⟩, draws := d, trace := s.trace ++ [.s v] }) := by
  unfold readPin nextPinLevel
  split
  · exact ⟨_, _, _, s.draws + 1, rfl⟩
  · rename_i h
    exact ⟨Config.freeLevel s.draws, [], Config.freeLevel (s.draws + 1), s.draws + 2, by simp [emit, h]⟩

/-- `F_HDR` (R110). -/
theorem frmHdr_eq (s : State) :
    (∃ r b d, frmHdr s =
      { s with
        busIn := b, draws := d, trace := s.trace ++ [.x s.hdr r]
        frm := if s.cnt = 0 then .desel else .data }) ∨
    ∃ b d, frmHdr s =
      { s with
        busIn := b, draws := d, trace := s.trace ++ [.xf s.hdr], ferr := true, frm := .desel } := by
  obtain ⟨a, b, d, h⟩ := busExchange_eq s.hdr s
  unfold frmHdr
  rw [h]
  cases a with
  | ok r => exact .inl ⟨r, b, d, rfl⟩
  | fault => exact .inr ⟨b, d, rfl⟩

/-- `F_DATA` (R110): a good exchange, its byte kept in RBUF in a read alone, or a faulted one. -/
theorem frmData_eq (s : State) :
    (∃ out r b d m, frmData s =
      { s with
        busIn := b, draws := d, trace := s.trace ++ [.x out r], rbuf := m
        idx := s.idx + 1, cnt := s.cnt - 1, frm := if s.cnt - 1 = 0 then .desel else .data } ∧
      (s.dir = .rd → m = Memory.write s.rbuf s.idx.toNat r) ∧ (s.dir ≠ .rd → m = s.rbuf)) ∨
    ∃ out b d, frmData s =
      { s with
        busIn := b, draws := d, trace := s.trace ++ [.xf out], ferr := true, frm := .desel } := by
  obtain ⟨v, d0, ho, -⟩ := outByte_eq s
  obtain ⟨a, b, d, h⟩ := busExchange_eq v { s with draws := d0 }
  unfold frmData
  rw [ho]
  simp only
  rw [h]
  cases a with
  | ok r =>
    refine .inl ⟨v, r, b, d, if s.dir = .rd then Memory.write s.rbuf s.idx.toNat r else s.rbuf, ?_,
      fun hd => by simp [hd], fun hd => by simp [hd]⟩
    cases hd : s.dir <;> simp [afterData, storeReceived, exchangeEvent]
  | fault => exact .inr ⟨v, b, d, rfl⟩

/-- A turn of the wait loop (R152): a match, a mismatch that is not the last allowed, or the last. -/
theorem pollSample_eq (s : State) :
    ∃ v p ff0 d,
      let t : State :=
        { s with pinIn := p, sync := ⟨ff0, v⟩, draws := d, trace := s.trace ++ [.s v] }
      (v = s.tgtLevel ∧ pollSample s = { t with ret := some .ok }) ∨
      (v ≠ s.tgtLevel ∧ pollBound s.straps.pollLimit = none ∧ pollSample s = t) ∨
      ∃ n, v ≠ s.tgtLevel ∧ pollBound s.straps.pollLimit = some n ∧
        pollSample s =
          { t with
            pollCnt := s.pollCnt + 1, ret := if s.pollCnt + 1 = n then some .timeout else none } := by
  obtain ⟨v, p, ff0, d, h⟩ := readPin_eq s
  refine ⟨v, p, ff0, d, ?_⟩
  unfold pollSample afterSample
  rw [h]
  by_cases hv : v = s.tgtLevel
  · exact .inl ⟨hv, by simp [hv]⟩
  · unfold countMismatch
    cases hb : pollBound s.straps.pollLimit with
    | none => exact .inr (.inl ⟨hv, rfl, by simp [hv]⟩)
    | some n => exact .inr (.inr ⟨n, hv, rfl, by simp [hv]⟩)

/-- TX steps 5 and 6 (R134, R136). -/
theorem txStatusDone_eq (s : State) :
    ∃ status d, txStatusDone s =
      { s with
        draws := d, ret := none, ctl := .ready, txstat := maskStatus status
        rspValid := true, rspCode := RspKind.code (txResult (maskStatus status)), rspRlen := 1
        trace := s.trace ++ [.rsp (txResult (maskStatus status)) (.txstat (maskStatus status))] } ∧
      ∀ b, Memory.read s.rbuf 0 = some b → status = b := by
  obtain ⟨v, d, h, hv⟩ := readOrFree_eq s.rbuf 0 s
  exact ⟨v, d, by unfold txStatusDone; rw [h]; rfl, hv⟩

/-- An abort (R178, R179). -/
theorem abort_eq (kind : RspKind) (s : State) :
    ∃ x, abort kind s =
      { s with
        rbuf := [], txstat := x, draws := s.draws + 1, ret := none, ctl := .ready
        rspValid := true, rspCode := RspKind.code kind, rspRlen := 0
        trace := s.trace ++ [.rsp kind .none] } :=
  ⟨_, rfl⟩

end Sys2Proof.Machine
end

