-- ==== Sys2Proof/Laws/Exec.lean ====
section
/-! SUPPORT. Laws/Exec.lean: what an instruction and a step come to, in one lemma each. -/

namespace Sys2Proof.Machine

/-- The state in which an instruction is accepted (R25, R29). -/
def accepted : Instr → State → State
  | .strobe addr, s => acceptStrobe (low6 addr) s
  | .wburst addr len, s => acceptWburst (low6 addr) len s
  | .rburst addr len, s => acceptRburst (low6 addr) len s
  | .hdrReserved addr, s => { acceptReserved 0b010 s with cAddr := low6 addr }
  | .sidle, s => acceptStrobe Config.idleAddress s
  | .stx, s => acceptStrobe Config.txAddress s
  | .wrPatable len, s => acceptWburst Config.powerTableAddress len s
  | .wrConfig len, s => acceptWburst Config.configBase len s
  | .wrTxfifo len, s => acceptWburst Config.fifoTxAddress len s
  | .rdTxstatus, s => acceptRburst Config.txStatusAddress 1 s
  | .init, s => acceptInit s
  | .tx len, s => acceptTx len s
  | .wait level, s => acceptWait level s
  | .cmdReserved010, s => acceptReserved 0b010 s
  | .cmdReserved111, s => acceptReserved 0b111 s

/-- Every instruction in every state: its acceptance and the small steps of the pace, or a stall. -/
theorem exec_eq (i : Instr) (s : State) :
    exec i s = .next (if s.ready then advance s.pace (accepted i s) else s) := by
  cases hr : s.ready <;> cases i <;>
    simp [exec, execStrobe, execWburst, execRburst, execHdrReserved, execSidle, execStx,
      execWrPatable, execWrConfig, execWrTxfifo, execRdTxstatus, execInit, execTx, execWait,
      execCmdReserved010, execCmdReserved111, command, hr, accepted] <;> rfl

theorem ready_iff (s : State) : s.ready = true ↔ s.ctl = .ready := by simp [State.ready]

theorem exec_ready {s : State} (h : s.ctl = .ready) (i : Instr) :
    exec i s = .next (advance s.pace (accepted i s)) := by
  rw [exec_eq, (ready_iff s).2 h]; rfl

theorem exec_busy {s : State} (h : s.ctl ≠ .ready) (i : Instr) : exec i s = .next s := by
  have hr : s.ready = false := by simpa [State.ready] using h
  rw [exec_eq, hr]; rfl

theorem accepted_ctl (i : Instr) (s : State) : (accepted i s).ctl = entryOf i := by
  cases i <;> rfl

/-- What acceptance writes besides the latches, the controller's state and the poller's registers. -/
theorem accepted_rest (i : Instr) (s : State) :
    (accepted i s).frm = .idle ∧ (accepted i s).ret = none ∧ (accepted i s).rspValid = false ∧
    (accepted i s).trace = s.trace ∧ (accepted i s).cs = s.cs ∧ (accepted i s).dbuf = s.dbuf ∧
    (accepted i s).rbuf = s.rbuf ∧ (accepted i s).straps = s.straps ∧ (accepted i s).cfg = s.cfg ∧
    (accepted i s).pa0 = s.pa0 ∧ (accepted i s).hostIn = s.hostIn ∧
    (accepted i s).busIn = s.busIn ∧ (accepted i s).pinIn = s.pinIn ∧
    (accepted i s).pace = s.pace := by
  cases i <;> exact ⟨rfl, rfl, rfl, rfl, rfl, rfl, rfl, rfl, rfl, rfl, rfl, rfl, rfl, rfl⟩

/-- Every step is one of these: the block going on by itself, a stalled command, a move of the host that
changes nothing while the block goes on, an effective write, an accepted command, a reset. -/
theorem step_cases {s t : State} (h : step s = .next t) :
    ((s.hostIn = [] ∨ ∃ w m, s.hostIn = .issue w :: m ∧ s.ctl ≠ .ready) ∧ t = proceed s) ∨
    (∃ m, s.hostIn = .quiet :: m ∧ t = proceed (takeMove s)) ∨
    (∃ i v m, s.hostIn = .writeDbuf i v :: m ∧ s.ctl ≠ .ready ∧ t = proceed (takeMove s)) ∨
    (∃ i v m, s.hostIn = .writeDbuf i v :: m ∧ s.ctl = .ready ∧ i.toNat < 255 ∧
      t = { takeMove s with dbuf := Memory.write s.dbuf i.toNat v }) ∨
    (∃ w m, s.hostIn = .issue w :: m ∧ s.ctl = .ready ∧
      exec (decode w) (latchRecord w (takeMove s)) = .next t) ∨
    ∃ m, s.hostIn = .reset :: m ∧ t = doReset (takeMove s) := by
  unfold step at h
  split at h
  · injection h with h; exact .inl ⟨.inl ‹_›, h.symm⟩
  · injection h with h; exact .inr (.inl ⟨_, ‹_›, h.symm⟩)
  · rename_i i v m hh
    unfold hostWrite at h
    by_cases hc : s.ctl = .ready
    · have hb : (takeMove s).busy = false := by simp [State.busy, State.ready, hc]
      simp only [hb] at h
      by_cases hi : i.toNat < Config.bufLen
      · simp [hi] at h
        exact .inr (.inr (.inr (.inl ⟨i, v, m, hh, hc, hi, h.symm⟩)))
      · simp [hi] at h
    · have hb : (takeMove s).busy = true := by simp [State.busy, State.ready, hc]
      simp only [hb, if_true] at h
      injection h with h
      exact .inr (.inr (.inl ⟨i, v, m, hh, hc, h.symm⟩))
  · rename_i w m hh
    unfold stepIssue at h
    by_cases hc : s.ctl = .ready
    · simp [State.ready, hc] at h
      exact .inr (.inr (.inr (.inr (.inl ⟨w, m, hh, hc, h⟩))))
    · simp [State.ready, hc] at h; exact .inl ⟨.inr ⟨w, m, hh, hc⟩, h.symm⟩
  · injection h with h; exact .inr (.inr (.inr (.inr (.inr ⟨_, ‹_›, h.symm⟩))))

end Sys2Proof.Machine
end

