-- ==== Sys2Proof/Laws/Memory.lean ====
section
/-! SUPPORT. Laws/Memory.lean: the byte buffers: read after write, and every write keeps the canonical
form. -/

namespace Sys2Proof.Machine

namespace Memory

@[simp] theorem read_nil (i : Nat) : Memory.read [] i = none := rfl

@[simp] theorem wf_nil : Memory.wf [] = true := rfl

theorem read_cons (a : Nat) (b : Byte) (m : Memory) (i : Nat) :
    Memory.read ((a, b) :: m) i = if a = i then some b else Memory.read m i := rfl

theorem risesFrom_cons (lo a : Nat) (b : Byte) (m : Memory) :
    Memory.risesFrom lo ((a, b) :: m) = true ↔
      lo ≤ a ∧ a < Config.bufLen ∧ Memory.risesFrom (a + 1) m = true := by
  simp [Memory.risesFrom, and_assoc]

/-- A read of the index just written gives the byte written. -/
@[simp] theorem read_write_same (m : Memory) (i : Nat) (v : Byte) :
    Memory.read (Memory.write m i v) i = some v := by
  induction m with
  | nil => simp [Memory.write, read_cons]
  | cons c m ih =>
    obtain ⟨a, b⟩ := c
    unfold Memory.write
    by_cases h1 : i < a
    · simp [h1, read_cons]
    · by_cases h2 : i = a
      · simp [h2, read_cons]
      · have h3 : ¬ a = i := fun h => h2 h.symm
        simp [h1, h2, h3, read_cons, ih]

/-- A write leaves every other index as it was. -/
theorem read_write_other (m : Memory) {i j : Nat} (v : Byte) (h : j ≠ i) :
    Memory.read (Memory.write m i v) j = Memory.read m j := by
  have h' : ¬ i = j := fun e => h e.symm
  induction m with
  | nil => simp [Memory.write, read_cons, h']
  | cons c m ih =>
    obtain ⟨a, b⟩ := c
    unfold Memory.write
    by_cases h1 : i < a
    · simp [h1, read_cons, h']
    · by_cases h2 : i = a
      · subst h2; simp [read_cons, h']
      · simp [h1, h2, read_cons, ih]

theorem read_write (m : Memory) (i j : Nat) (v : Byte) :
    Memory.read (Memory.write m i v) j = if j = i then some v else Memory.read m j := by
  by_cases h : j = i
  · subst h; simp
  · simp [h, read_write_other m v h]

theorem risesFrom_mono {lo lo' : Nat} (h : lo ≤ lo') {m : Memory}
    (hm : Memory.risesFrom lo' m = true) : Memory.risesFrom lo m = true := by
  cases m with
  | nil => rfl
  | cons c m =>
    obtain ⟨a, b⟩ := c
    rw [risesFrom_cons] at hm ⊢
    exact ⟨by omega, hm.2⟩

theorem write_risesFrom (m : Memory) (lo i : Nat) (v : Byte) (hlo : lo ≤ i)
    (hi : i < Config.bufLen) (hm : Memory.risesFrom lo m = true) :
    Memory.risesFrom lo (Memory.write m i v) = true := by
  induction m generalizing lo with
  | nil => simp [Memory.write, hlo, hi, Memory.risesFrom]
  | cons c m ih =>
    obtain ⟨a, b⟩ := c
    rw [risesFrom_cons] at hm
    unfold Memory.write
    by_cases h1 : i < a
    · simp only [h1, if_true, risesFrom_cons]
      exact ⟨hlo, hi, by omega, hm.2⟩
    · by_cases h2 : i = a
      · subst h2
        simp only [h1, if_false, if_true, risesFrom_cons]
        exact hm
      · simp only [h1, h2, if_false, risesFrom_cons]
        exact ⟨hm.1, hm.2.1, ih (a + 1) (by omega) hm.2.2⟩

/-- A write keeps the canonical form. -/
theorem write_wf (m : Memory) (i : Nat) (v : Byte) (hi : i < Config.bufLen)
    (hm : Memory.wf m = true) : Memory.wf (Memory.write m i v) = true :=
  write_risesFrom m 0 i v (Nat.zero_le i) hi hm

/-- A run of writes within the buffer keeps it too. -/
theorem writeFrom_wf (bs : List Byte) (m : Memory) (i : Nat) (hi : i + bs.length ≤ Config.bufLen)
    (hm : Memory.wf m = true) : Memory.wf (Memory.writeFrom m i bs) = true := by
  induction bs generalizing m i with
  | nil => exact hm
  | cons b bs ih =>
    rw [List.length_cons] at hi
    exact ih _ _ (by omega) (write_wf m i b (by omega) hm)

/-- A byte held lies at an index of the buffer. -/
theorem read_isSome_lt {m : Memory} {lo i : Nat} (hm : Memory.risesFrom lo m = true)
    (h : (Memory.read m i).isSome) : i < Config.bufLen := by
  induction m generalizing lo with
  | nil => simp at h
  | cons c m ih =>
    obtain ⟨a, b⟩ := c
    rw [risesFrom_cons] at hm
    rw [read_cons] at h
    by_cases h1 : a = i
    · omega
    · exact ih hm.2.2 (by simpa [h1] using h)

/-- A read after a run of writes. -/
theorem read_writeFrom (bs : List Byte) (m : Memory) (i j : Nat) :
    Memory.read (Memory.writeFrom m i bs) j =
      if h : i ≤ j ∧ j < i + bs.length then some (bs[j - i]'(by omega)) else Memory.read m j := by
  induction bs generalizing m i with
  | nil =>
    have : ¬ (i ≤ j ∧ j < i) := by omega
    simp [Memory.writeFrom, this]
  | cons b bs ih =>
    simp only [Memory.writeFrom, ih, read_write, List.length_cons]
    by_cases h1 : i + 1 ≤ j ∧ j < i + 1 + bs.length
    · have h2 : i ≤ j ∧ j < i + (bs.length + 1) := by omega
      rw [dif_pos h1, dif_pos h2]
      have : j - i = (j - (i + 1)) + 1 := by omega
      simp [this]
    · rw [dif_neg h1]
      by_cases h3 : j = i
      · subst h3; simp
      · have h2 : ¬ (i ≤ j ∧ j < i + (bs.length + 1)) := by omega
        rw [dif_neg h2, if_neg h3]

/-- The bytes of a run of writes from index 0, read back whole. -/
theorem firstBytes_writeFrom (bs : List Byte) (m : Memory) :
    Memory.firstBytes (Memory.writeFrom m 0 bs) bs.length = bs := by
  have h : ∀ k, k ≤ bs.length →
      (List.range k).filterMap (fun i => Memory.read (Memory.writeFrom m 0 bs) i) = bs.take k := by
    intro k
    induction k with
    | zero => simp
    | succ k ih =>
      intro hk
      have hlt : k < bs.length := by omega
      rw [List.range_succ, List.filterMap_append, ih (by omega), List.take_add_one]
      simp [read_writeFrom, hlt]
  simpa [Memory.firstBytes] using h bs.length (Nat.le_refl _)

theorem firstBytes_succ {m : Memory} {n : Nat} {b : Byte} (h : Memory.read m n = some b) :
    Memory.firstBytes m (n + 1) = Memory.firstBytes m n ++ [b] := by
  simp [Memory.firstBytes, List.range_succ, List.filterMap_append, h]

/-- The bytes at the indices below `n`, where all of them are held: how many, and each of them. -/
theorem firstBytes_held {m : Memory} {n : Nat} (h : ∀ i < n, (Memory.read m i).isSome) :
    (Memory.firstBytes m n).length = n ∧
      ∀ j, (Memory.firstBytes m n)[j]? = if j < n then Memory.read m j else none := by
  induction n with
  | zero => simp [Memory.firstBytes]
  | succ n ih =>
    obtain ⟨hl, hj⟩ := ih (fun i hi => h i (by omega))
    obtain ⟨b, hb⟩ := Option.isSome_iff_exists.1 (h n (by omega))
    rw [firstBytes_succ hb]
    refine ⟨by simp [hl], fun j => ?_⟩
    rcases Nat.lt_trichotomy j n with hlt | rfl | hgt
    · have h1 : j < n + 1 := by omega
      rw [List.getElem?_append_left (by omega), hj, if_pos hlt, if_pos h1]
    · simp [hl, hb]
    · have h2 : ¬ j < n + 1 := by omega
      simp [hl, h2]

end Memory
end Sys2Proof.Machine
end

