-- ==== Sys2Proof/Laws/Framer.lean ====
section
/-! SUPPORT. Laws/Framer.lean: the framer's small steps with the answers they meet, and runs of them:
what a whole chip-select window does to the state (R110 to R113, R115). -/

namespace Sys2Proof.Machine

/-! ## One small step, answer by answer -/

theorem nextBusAnswer_cons {s : State} {a : BusAnswer} {rest : List BusAnswer}
    (h : s.busIn = a :: rest) : nextBusAnswer s = (a, { s with busIn := rest }) := by
  simp [nextBusAnswer, h]

theorem busExchange_cons {s : State} {a : BusAnswer} {rest : List BusAnswer} (out : Byte)
    (h : s.busIn = a :: rest) :
    busExchange out s =
      (a, { s with busIn := rest, trace := s.trace ++ [exchangeEvent out a] }) := by
  simp [busExchange, nextBusAnswer_cons h, emit]

theorem frmHdr_ok {s : State} {r : Byte} {rest : List BusAnswer} (h : s.busIn = .ok r :: rest) :
    frmHdr s =
      { s with
        busIn := rest, trace := s.trace ++ [.x s.hdr r]
        frm := if s.cnt = 0 then .desel else .data } := by
  simp [frmHdr, busExchange_cons _ h, afterHdr, exchangeEvent]

theorem frmHdr_fault {s : State} {rest : List BusAnswer} (h : s.busIn = .fault :: rest) :
    frmHdr s =
      { s with busIn := rest, trace := s.trace ++ [.xf s.hdr], ferr := true, frm := .desel } := by
  simp [frmHdr, busExchange_cons _ h, afterHdr, exchangeEvent]

/-- The byte `src[i]`, where it holds a value (R116, R131, R132). -/
def srcAt (s : State) (i : Nat) : Option Byte :=
  match s.ctl with
  | .initPa => some s.pa0
  | .initCfg => s.cfg[i]?
  | _ => Memory.read s.dbuf i

theorem srcByte_of_srcAt {s : State} {b : Byte} (h : srcAt s s.idx.toNat = some b) :
    srcByte s = (b, s) := by
  unfold srcAt at h
  unfold srcByte
  split at h <;> simp_all [cfgByte, readOrFree]
  split <;> simp_all

theorem frmData_wr_ok {s : State} {b r : Byte} {rest : List BusAnswer} (hd : s.dir = .wr)
    (hs : srcAt s s.idx.toNat = some b) (h : s.busIn = .ok r :: rest) :
    frmData s =
      { s with
        busIn := rest, trace := s.trace ++ [.x b r], idx := s.idx + 1, cnt := s.cnt - 1
        frm := if s.cnt - 1 = 0 then .desel else .data } := by
  simp [frmData, outByte, hd, srcByte_of_srcAt hs, busExchange_cons _ h, afterData, exchangeEvent,
    storeReceived]

theorem frmData_wr_fault {s : State} {b : Byte} {rest : List BusAnswer} (hd : s.dir = .wr)
    (hs : srcAt s s.idx.toNat = some b) (h : s.busIn = .fault :: rest) :
    frmData s =
      { s with busIn := rest, trace := s.trace ++ [.xf b], ferr := true, frm := .desel } := by
  simp [frmData, outByte, hd, srcByte_of_srcAt hs, busExchange_cons _ h, afterData, exchangeEvent]

theorem frmData_rd_ok {s : State} {r : Byte} {rest : List BusAnswer} (hd : s.dir = .rd)
    (h : s.busIn = .ok r :: rest) :
    frmData s =
      { s with
        busIn := rest, trace := s.trace ++ [.x Config.dummy r]
        rbuf := Memory.write s.rbuf s.idx.toNat r, idx := s.idx + 1, cnt := s.cnt - 1
        frm := if s.cnt - 1 = 0 then .desel else .data } := by
  simp [frmData, outByte, hd, busExchange_cons _ h, afterData, exchangeEvent, storeReceived]

theorem frmData_rd_fault {s : State} {rest : List BusAnswer} (hd : s.dir = .rd)
    (h : s.busIn = .fault :: rest) :
    frmData s =
      { s with
        busIn := rest, trace := s.trace ++ [.xf Config.dummy], ferr := true, frm := .desel } := by
  simp [frmData, outByte, hd, busExchange_cons _ h, afterData, exchangeEvent]

/-! ## Runs of data bytes -/

/-- The phase after `k` data bytes of the `n` left. -/
def phaseAfter (n k : Nat) : Frm := if k < n then .data else .desel

/-- `k` good exchanges of a burst write's data phase. -/
theorem advance_data_wr (data rs : List Byte) (hl : rs.length = data.length) :
    ∀ (s : State) (rest : List BusAnswer), s.ret = none → s.frm = .data → s.dir = .wr →
      data.length ≤ s.cnt.toNat → 0 < s.cnt.toNat → s.idx.toNat + s.cnt.toNat ≤ 255 →
      (∀ j (h : j < data.length), srcAt s (s.idx.toNat + j) = some data[j]) →
      s.busIn = oks rs ++ rest →
      advance data.length s =
        { s with
          busIn := rest, trace := s.trace ++ List.zipWith .x data rs
          idx := s.idx + BitVec.ofNat 8 data.length, cnt := s.cnt - BitVec.ofNat 8 data.length
          frm := phaseAfter s.cnt.toNat data.length } := by
  induction data generalizing rs with
  | nil =>
    intro s rest hr hf hd hn hpos hsum hsrc hbus
    cases rs with
    | nil =>
      simp only [oks, List.map_nil, List.nil_append] at hbus
      simp [phaseAfter, hpos, ← hbus, ← hf]
    | cons r rs => simp at hl
  | cons b data ih =>
    intro s rest hr hf hd hn hpos hsum hsrc hbus
    cases rs with
    | nil => simp at hl
    | cons r rs =>
      simp only [List.length_cons] at hl hn
      have hs0 : srcAt s s.idx.toNat = some b := hsrc 0 (Nat.succ_pos _)
      have hbus' : s.busIn = .ok r :: (oks rs ++ rest) := by simpa [oks] using hbus
      rw [List.length_cons, advance_succ, tick_of_data hr hf, frmData_wr_ok hd hs0 hbus']
      have hcnt : (s.cnt - 1).toNat = s.cnt.toNat - 1 := by bv_omega
      have hidx : (s.idx + 1).toNat = s.idx.toNat + 1 := by bv_omega
      by_cases hz : s.cnt.toNat = 1
      · have hd0 : data = [] := by
          cases data with
          | nil => rfl
          | cons c data => simp at hn; omega
        subst hd0
        have hrs : rs = [] := by simpa using hl
        subst hrs
        have h0 : s.cnt - 1#8 = 0#8 := by bv_omega
        simp [phaseAfter, hz, oks, h0]
      · have h0 : ¬ s.cnt - 1#8 = 0#8 := by bv_omega
        have hp : (if s.cnt - 1 = 0 then Frm.desel else Frm.data) = .data := if_neg h0
        rw [hp]
        have := ih rs (by omega)
          { s with
            busIn := oks rs ++ rest, trace := s.trace ++ [.x b r], idx := s.idx + 1, cnt := s.cnt - 1
            frm := .data } rest hr rfl hd (by simp only [hcnt]; omega) (by simp only [hcnt]; omega)
            (by simp only [hcnt, hidx]; omega)
            (by
              intro j hj
              have := hsrc (j + 1) (by simpa using hj)
              simp only [hidx]
              rw [show s.idx.toNat + 1 + j = s.idx.toNat + (j + 1) by omega]
              simpa [srcAt] using this)
            rfl
        rw [this]
        have e1 : s.idx + 1 + BitVec.ofNat 8 data.length = s.idx + BitVec.ofNat 8 (data.length + 1) := by
          bv_omega
        have e2 : s.cnt - 1 - BitVec.ofNat 8 data.length = s.cnt - BitVec.ofNat 8 (data.length + 1) := by
          bv_omega
        have e3 : phaseAfter (s.cnt - 1).toNat data.length = phaseAfter s.cnt.toNat (data.length + 1) := by
          simp only [phaseAfter, hcnt]
          congr 1
          simp only [eq_iff_iff]; omega
        simp only [e1, e2, e3]
        simp

/-- `k` good exchanges of a burst read's data phase. -/
theorem advance_data_rd (rs : List Byte) :
    ∀ (s : State) (rest : List BusAnswer), s.ret = none → s.frm = .data → s.dir = .rd →
      rs.length ≤ s.cnt.toNat → 0 < s.cnt.toNat → s.idx.toNat + s.cnt.toNat ≤ 255 →
      s.busIn = oks rs ++ rest →
      advance rs.length s =
        { s with
          busIn := rest, trace := s.trace ++ rs.map (fun r => .x Config.dummy r)
          rbuf := Memory.writeFrom s.rbuf s.idx.toNat rs
          idx := s.idx + BitVec.ofNat 8 rs.length, cnt := s.cnt - BitVec.ofNat 8 rs.length
          frm := phaseAfter s.cnt.toNat rs.length } := by
  induction rs with
  | nil =>
    intro s rest hr hf hd hn hpos hsum hbus
    simp only [oks, List.map_nil, List.nil_append] at hbus
    simp [phaseAfter, hpos, ← hbus, ← hf, Memory.writeFrom]
  | cons r rs ih =>
    intro s rest hr hf hd hn hpos hsum hbus
    simp only [List.length_cons] at hn
    have hbus' : s.busIn = .ok r :: (oks rs ++ rest) := by simpa [oks] using hbus
    rw [List.length_cons, advance_succ, tick_of_data hr hf, frmData_rd_ok hd hbus']
    have hcnt : (s.cnt - 1).toNat = s.cnt.toNat - 1 := by bv_omega
    have hidx : (s.idx + 1).toNat = s.idx.toNat + 1 := by bv_omega
    by_cases hz : s.cnt.toNat = 1
    · have hrs : rs = [] := by
        cases rs with
        | nil => rfl
        | cons c rs => simp at hn; omega
      subst hrs
      have h0 : s.cnt - 1#8 = 0#8 := by bv_omega
      simp [phaseAfter, hz, oks, h0, Memory.writeFrom]
    · have h0 : ¬ s.cnt - 1#8 = 0#8 := by bv_omega
      have hp : (if s.cnt - 1 = 0 then Frm.desel else Frm.data) = .data := if_neg h0
      rw [hp]
      have := ih
        { s with
          busIn := oks rs ++ rest, trace := s.trace ++ [.x Config.dummy r]
          rbuf := Memory.write s.rbuf s.idx.toNat r, idx := s.idx + 1, cnt := s.cnt - 1
          frm := .data } rest hr rfl hd (by simp only [hcnt]; omega) (by simp only [hcnt]; omega)
          (by simp only [hcnt, hidx]; omega) rfl
      rw [this]
      have e1 : s.idx + 1 + BitVec.ofNat 8 rs.length = s.idx + BitVec.ofNat 8 (rs.length + 1) := by
        bv_omega
      have e2 : s.cnt - 1 - BitVec.ofNat 8 rs.length = s.cnt - BitVec.ofNat 8 (rs.length + 1) := by
        bv_omega
      have e3 : phaseAfter (s.cnt - 1).toNat rs.length = phaseAfter s.cnt.toNat (rs.length + 1) := by
        simp only [phaseAfter, hcnt]
        congr 1
        simp only [eq_iff_iff]; omega
      simp only [e1, e2, e3, hidx]
      simp [Memory.writeFrom]

end Sys2Proof.Machine
end

