-- ==== Sys2Proof/Laws/Pace.lean ====
section
/-! SUPPORT. Laws/Pace.lean: no small step reads or writes the pace, so that the pace only groups the small
steps (R6; log entry 1). -/

namespace Sys2Proof.Machine

/-- The state with another pace. -/
def withPace (p : Nat) (s : State) : State := { s with pace := p }

@[simp] theorem withPace_withPace (p q : Nat) (s : State) :
    withPace p (withPace q s) = withPace p s := rfl

theorem withPace_of_pace {p : Nat} {s : State} (h : s.pace = p) : withPace p s = s := by
  subst h; rfl

theorem nextBusAnswer_withPace (p : Nat) (s : State) :
    nextBusAnswer (withPace p s) = ((nextBusAnswer s).1, withPace p (nextBusAnswer s).2) := by
  cases h : s.busIn <;> simp [nextBusAnswer, withPace, h]

theorem readOrFree_withPace (p : Nat) (m : Memory) (i : Nat) (s : State) :
    readOrFree m i (withPace p s) = ((readOrFree m i s).1, withPace p (readOrFree m i s).2) := by
  cases h : Memory.read m i <;> simp [readOrFree, withPace, h]

theorem nextPinLevel_withPace (p : Nat) (s : State) :
    nextPinLevel (withPace p s) = withPace p (nextPinLevel s) := by
  cases h : s.pinIn <;> simp [nextPinLevel, withPace, h]

theorem cfgByte_withPace (p i : Nat) (s : State) :
    cfgByte i (withPace p s) = ((cfgByte i s).1, withPace p (cfgByte i s).2) := by
  cases h : s.cfg[i]? <;> simp [cfgByte, withPace, h]

theorem srcByte_withPace (p : Nat) (s : State) :
    srcByte (withPace p s) = ((srcByte s).1, withPace p (srcByte s).2) := by
  have hc := cfgByte_withPace p s.idx.toNat s
  have hd := readOrFree_withPace p s.dbuf s.idx.toNat s
  cases h : s.ctl <;> simp_all [srcByte, withPace]

theorem outByte_withPace (p : Nat) (s : State) :
    outByte (withPace p s) = ((outByte s).1, withPace p (outByte s).2) := by
  have hs := srcByte_withPace p s
  cases h : s.dir <;> simp_all [outByte, withPace]

theorem frmHdr_withPace (p : Nat) (s : State) : frmHdr (withPace p s) = withPace p (frmHdr s) := by
  unfold frmHdr busExchange
  rw [nextBusAnswer_withPace]
  obtain ⟨a, t⟩ := nextBusAnswer s
  cases a <;> rfl

theorem frmData_withPace (p : Nat) (s : State) :
    frmData (withPace p s) = withPace p (frmData s) := by
  unfold frmData busExchange
  rw [outByte_withPace]
  simp only
  rw [nextBusAnswer_withPace]
  obtain ⟨a, t⟩ := nextBusAnswer (outByte s).2
  cases a <;> cases hd : t.dir <;> simp [afterData, storeReceived, withPace, emit, hd]

theorem pollSample_withPace (p : Nat) (s : State) :
    pollSample (withPace p s) = withPace p (pollSample s) := by
  unfold pollSample readPin
  rw [nextPinLevel_withPace]
  generalize nextPinLevel s = t
  by_cases h : t.sync.ff1 = t.tgtLevel
  · simp [afterSample, withPace, emit, h]
  · cases hb : pollBound t.straps.pollLimit with
    | none => simp [afterSample, countMismatch, withPace, emit, h, hb]
    | some n => simp [afterSample, countMismatch, withPace, emit, h, hb]; rfl

theorem txStatusDone_withPace (p : Nat) (s : State) :
    txStatusDone (withPace p s) = withPace p (txStatusDone s) := by
  have h := readOrFree_withPace p s.rbuf 0 s
  simp only [txStatusDone, show (withPace p s).rbuf = s.rbuf from rfl, h]
  rfl

theorem primDone_withPace (p : Nat) (s : State) :
    primDone (withPace p s) = withPace p (primDone s) := by
  by_cases h : s.cOp = 0b011#3 <;> simp [primDone, withPace, h, respond, emit]

theorem enterTxWait_withPace (p : Nat) (s : State) :
    enterTxWait (withPace p s) = withPace p (enterTxWait s) := by
  cases h : s.straps.policy <;> simp [enterTxWait, withPace, h, startWait]

theorem afterOk_withPace (p : Nat) (s : State) : afterOk (withPace p s) = withPace p (afterOk s) := by
  unfold afterOk
  rw [show (withPace p s).ctl = s.ctl from rfl]
  cases s.ctl <;> first
    | exact primDone_withPace p s
    | exact enterTxWait_withPace p s
    | exact txStatusDone_withPace p s
    | rfl

theorem onReturn_withPace (r : Ret) (p : Nat) (s : State) :
    onReturn r (withPace p s) = withPace p (onReturn r s) := by
  cases r with
  | ok => exact afterOk_withPace p { s with ret := none }
  | busFault => rfl
  | timeout => rfl

theorem completionWait_withPace (p : Nat) (s : State) :
    completionWait (withPace p s) = withPace p (completionWait s) := by
  unfold completionWait
  rw [show (withPace p s).straps = s.straps from rfl]
  cases s.straps.policy with
  | signalPoll => exact pollSample_withPace p s
  | fixedDelay => rfl

theorem ctlIdle_withPace (p : Nat) (s : State) :
    ctlIdle (withPace p s) = withPace p (ctlIdle s) := by
  unfold ctlIdle
  rw [show (withPace p s).ctl = s.ctl from rfl, show opArgs (withPace p s) = opArgs s from rfl]
  cases s.ctl <;> first
    | exact pollSample_withPace p s
    | exact completionWait_withPace p s
    | rfl
    | (cases opArgs s <;> rfl)

/-- A small step neither reads nor writes the pace. -/
theorem tick_withPace (p : Nat) (s : State) : tick (withPace p s) = withPace p (tick s) := by
  unfold tick
  rw [show (withPace p s).ret = s.ret from rfl, show (withPace p s).frm = s.frm from rfl]
  cases s.ret with
  | some r => exact onReturn_withPace r p s
  | none =>
    cases s.frm with
    | idle => exact ctlIdle_withPace p s
    | sel => rfl
    | hdr => exact frmHdr_withPace p s
    | data => exact frmData_withPace p s
    | desel => rfl

theorem advance_withPace (n p : Nat) (s : State) :
    advance n (withPace p s) = withPace p (advance n s) := by
  induction n generalizing s with
  | zero => rfl
  | succ n ih => rw [advance_succ, advance_succ, tick_withPace, ih]

/-- Small steps taken under another pace are the same small steps. -/
theorem advance_under_pace (n q : Nat) {p : Nat} {s : State} (h : s.pace = p) :
    withPace p (advance n (withPace q s)) = advance n s := by
  rw [advance_withPace, withPace_withPace,
    withPace_of_pace ((sameCommand_advance n s).pace.trans h)]

theorem accepted_withPace (i : Instr) (p : Nat) (s : State) :
    accepted i (withPace p s) = withPace p (accepted i s) := by
  cases i <;> rfl

/-- A host that makes no move: a step is the small steps of the pace. -/
theorem step_of_no_move {s : State} (h : s.hostIn = []) : step s = .next (proceed s) := by
  simp [step, h]

theorem run_succ_of_next {M : Host.Core} {s t : M.State} (n : Nat) (h : M.step s = .next t) :
    M.run (n + 1) s = M.run n t := by
  rw [Host.Core.run, h]

/-- At pace 0 and with no host move, `n` steps of the machine are `n` small steps. -/
theorem run_smallSteps (n : Nat) {s : State} (h : s.hostIn = []) (hp : s.pace = 0) :
    Host.Core.run Sys2Proof.core n s = .next (advance n s) := by
  induction n generalizing s with
  | zero => rfl
  | succ n ih =>
    have k := sameCommand_tick s
    have hs : step s = .next (tick s) := by
      rw [step_of_no_move h, proceed, hp]; rfl
    rw [run_succ_of_next (M := Sys2Proof.core) n hs]
    exact ih (k.hostIn.trans h) (k.pace.trans hp)

end Sys2Proof.Machine
end

