-- ==== Sys2Proof/Laws/Poller.lean ====
section
/-! SUPPORT. Laws/Poller.lean: the wait loop over the levels it meets (R152, R153). -/

namespace Sys2Proof.Machine

theorem not_bool_ne (b : Bool) : (!b) ≠ b := by cases b <;> decide

/-- A polling block takes a sample. -/
theorem tick_polling {s : State} (hp : polling s = true) (hf : s.frm = .idle) :
    tick s = pollSample s := by
  simp only [polling, Bool.and_eq_true, Bool.or_eq_true, beq_iff_eq] at hp
  obtain ⟨hr, hc⟩ := hp
  rw [tick_of_idle hr hf]
  rcases hc with hc | ⟨hc, hpol⟩
  · simp [ctlIdle, hc]
  · simp [ctlIdle, hc, completionWait, hpol]

theorem pollSample_cons {s : State} {v : Level} {rest : List Level} (h : s.pinIn = v :: rest) :
    pollSample s = afterSample v
      { s with
        pinIn := rest, sync := ⟨Config.freeLevel s.draws, v⟩, draws := s.draws + 1
        trace := s.trace ++ [.s v] } := by
  simp [pollSample, readPin, nextPinLevel, h, emit]

/-- `poll_cnt` after `k` more mismatches. -/
def countedFrom (limit : PollLimit) (c k : Nat) : Nat :=
  match limit with
  | .unbounded => c
  | .bounded _ => c + k

/-- `k` mismatching samples, fewer than the bound leaves. -/
theorem advance_mismatches (k : Nat) :
    ∀ (s : State) (rest : List Level), polling s = true → s.frm = .idle →
      (∀ n, pollBound s.straps.pollLimit = some n → s.pollCnt + k < n) →
      s.pinIn = List.replicate k (!s.tgtLevel) ++ rest →
      ∃ sy d, advance k s =
        { s with
          pinIn := rest, sync := sy, draws := d
          pollCnt := countedFrom s.straps.pollLimit s.pollCnt k
          trace := s.trace ++ samples (List.replicate k (!s.tgtLevel)) } := by
  induction k with
  | zero =>
    intro s rest hp hf hn hpin
    refine ⟨s.sync, s.draws, ?_⟩
    have hpin' : s.pinIn = rest := by simpa using hpin
    have hc : countedFrom s.straps.pollLimit s.pollCnt 0 = s.pollCnt := by
      cases s.straps.pollLimit <;> rfl
    simp [samples, ← hpin', hc]
  | succ k ih =>
    intro s rest hp hf hn hpin
    have hpin' : s.pinIn = (!s.tgtLevel) :: (List.replicate k (!s.tgtLevel) ++ rest) := by
      simpa [List.replicate_succ] using hpin
    rw [advance_succ, tick_polling hp hf, pollSample_cons hpin']
    have hne : ¬ (!s.tgtLevel) = s.tgtLevel := not_bool_ne _
    have hp' := hp
    simp only [polling, Bool.and_eq_true, Bool.or_eq_true, beq_iff_eq] at hp'
    cases hb : s.straps.pollLimit with
    | unbounded =>
      have hs : afterSample (!s.tgtLevel)
          { s with
            pinIn := List.replicate k (!s.tgtLevel) ++ rest
            sync := ⟨Config.freeLevel s.draws, !s.tgtLevel⟩, draws := s.draws + 1
            trace := s.trace ++ [.s (!s.tgtLevel)] } =
          { s with
            pinIn := List.replicate k (!s.tgtLevel) ++ rest
            sync := ⟨Config.freeLevel s.draws, !s.tgtLevel⟩, draws := s.draws + 1
            trace := s.trace ++ [.s (!s.tgtLevel)] } := by
        simp [afterSample, countMismatch, pollBound, hb]
      rw [hs]
      obtain ⟨sy, d, h⟩ := ih
        { s with
          pinIn := List.replicate k (!s.tgtLevel) ++ rest
          sync := ⟨Config.freeLevel s.draws, !s.tgtLevel⟩, draws := s.draws + 1
          trace := s.trace ++ [.s (!s.tgtLevel)] } rest hp hf
        (by intro n h; simp [hb, pollBound] at h) rfl
      refine ⟨sy, d, ?_⟩
      rw [h]
      simp [countedFrom, hb, samples, List.replicate_succ]
    | bounded m =>
      have hlt := hn (m + 1) (by simp [hb, pollBound])
      have hm : ¬ s.pollCnt + 1 = m + 1 := by omega
      have hs : afterSample (!s.tgtLevel)
          { s with
            pinIn := List.replicate k (!s.tgtLevel) ++ rest
            sync := ⟨Config.freeLevel s.draws, !s.tgtLevel⟩, draws := s.draws + 1
            trace := s.trace ++ [.s (!s.tgtLevel)] } =
          { s with
            pinIn := List.replicate k (!s.tgtLevel) ++ rest
            sync := ⟨Config.freeLevel s.draws, !s.tgtLevel⟩, draws := s.draws + 1
            pollCnt := s.pollCnt + 1
            trace := s.trace ++ [.s (!s.tgtLevel)] } := by
        have hm' : ¬ s.pollCnt = m := by omega
        simp [afterSample, countMismatch, pollBound, hb, hm', hp'.1]
      rw [hs]
      obtain ⟨sy, d, h⟩ := ih
        { s with
          pinIn := List.replicate k (!s.tgtLevel) ++ rest
          sync := ⟨Config.freeLevel s.draws, !s.tgtLevel⟩, draws := s.draws + 1
          pollCnt := s.pollCnt + 1
          trace := s.trace ++ [.s (!s.tgtLevel)] } rest hp hf
        (by
          intro n h
          have := hn n h
          simp only; omega) rfl
      refine ⟨sy, d, ?_⟩
      rw [h]
      have e : s.pollCnt + 1 + k = s.pollCnt + (k + 1) := by omega
      simp [countedFrom, hb, samples, List.replicate_succ, e]

/-- A wait that matches after `k` mismatching samples, fewer than the bound leaves. -/
theorem advance_match {s : State} {k : Nat} {rest : List Level} (hp : polling s = true)
    (hf : s.frm = .idle) (hn : ∀ n, pollBound s.straps.pollLimit = some n → s.pollCnt + k < n)
    (hpin : s.pinIn = List.replicate k (!s.tgtLevel) ++ s.tgtLevel :: rest) :
    ∃ ff0 d, advance (k + 1) s =
      { s with
        pinIn := rest, sync := ⟨ff0, s.tgtLevel⟩, draws := d, ret := some .ok
        pollCnt := countedFrom s.straps.pollLimit s.pollCnt k
        trace := s.trace ++ samples (List.replicate k (!s.tgtLevel) ++ [s.tgtLevel]) } := by
  obtain ⟨sy, d, h⟩ := advance_mismatches k s (s.tgtLevel :: rest) hp hf hn hpin
  refine ⟨Config.freeLevel d, d + 1, ?_⟩
  rw [advance_add, h, advance_succ, tick_polling (by exact hp) (by exact hf),
    pollSample_cons (v := s.tgtLevel) (rest := rest) rfl]
  simp [afterSample, samples]

/-- A wait whose samples up to the bound all mismatch. -/
theorem advance_timeout {s : State} {k m : Nat} {rest : List Level} (hp : polling s = true)
    (hf : s.frm = .idle) (hb : s.straps.pollLimit = .bounded m) (hk : s.pollCnt + k = m)
    (hpin : s.pinIn = List.replicate (k + 1) (!s.tgtLevel) ++ rest) :
    ∃ sy d, advance (k + 1) s =
      { s with
        pinIn := rest, sync := sy, draws := d, ret := some .timeout, pollCnt := m + 1
        trace := s.trace ++ samples (List.replicate (k + 1) (!s.tgtLevel)) } := by
  obtain ⟨sy, d, h⟩ := advance_mismatches k s ((!s.tgtLevel) :: rest) hp hf
    (by intro n hn; simp [hb, pollBound] at hn; omega)
    (by rw [hpin, List.replicate_succ']; simp)
  refine ⟨⟨Config.freeLevel d, !s.tgtLevel⟩, d + 1, ?_⟩
  have hne : ¬ (!s.tgtLevel) = s.tgtLevel := not_bool_ne _
  rw [advance_add, h, advance_succ, tick_polling (by exact hp) (by exact hf),
    pollSample_cons (v := !s.tgtLevel) (rest := rest) rfl]
  simp [afterSample, countMismatch, hb, pollBound, countedFrom, hk, samples,
    List.replicate_succ']

end Sys2Proof.Machine
end

