-- ==== Sys2Proof/Laws/Window.lean ====
section
/-! SUPPORT. Laws/Window.lean: one whole bus operation, from its start to its returned value, by the
answers it meets (R110 to R113, R115). -/

namespace Sys2Proof.Machine

theorem tick_start {s : State} {o : OpArgs} (hr : s.ret = none) (hf : s.frm = .idle)
    (ho : opArgs s = some o) : tick s = loadOp o s := by
  rw [tick_of_idle hr hf]
  unfold ctlIdle
  split <;> simp_all [opArgs]

/-- The first two small steps of an operation: its registers loaded, chip-select asserted. -/
theorem advance_open {s : State} {o : OpArgs} (hr : s.ret = none) (hf : s.frm = .idle)
    (ho : opArgs s = some o) :
    advance 2 s =
      { s with
        hdr := frame (addrOperand o.addr) o.flag, cnt := o.len, idx := 0, dir := o.kind, ferr := false
        frm := .hdr, cs := true, trace := s.trace ++ [.csAssert] } := by
  rw [advance_succ, tick_start hr hf ho, advance_succ, tick_of_sel (by simpa using hr) (by simp)]
  simp [loadOp, frmSel, busAssert, emit]

/-- The last small step of an operation. -/
theorem advance_close {s : State} (hr : s.ret = none) (hf : s.frm = .desel) :
    advance 1 s =
      { s with
        frm := .idle, cs := false, ret := some (opResult s.ferr)
        trace := s.trace ++ [.csDeassert] } := by
  rw [advance_succ, tick_of_desel hr hf]
  simp [frmDesel, busDeassert, emit]

/-- An operation with no data phase, its header answered `ok`. -/
theorem advance_noData_ok {s : State} {o : OpArgs} {r : Byte} {rest : List BusAnswer}
    (hr : s.ret = none) (hf : s.frm = .idle) (ho : opArgs s = some o) (hn : o.len = 0)
    (hb : s.busIn = .ok r :: rest) :
    advance 4 s =
      { s with
        hdr := frame (addrOperand o.addr) o.flag, cnt := 0, idx := 0, dir := o.kind, ferr := false
        cs := false, frm := .idle, ret := some .ok, busIn := rest
        trace := s.trace ++ okWindow (frame (addrOperand o.addr) o.flag) r [] [] } := by
  rw [show 4 = 2 + (1 + 1) from rfl, advance_add, advance_open hr hf ho, advance_succ,
    tick_of_hdr (by exact hr) (by rfl), frmHdr_ok (r := r) (rest := rest) (by exact hb),
    advance_close (by exact hr) (by simp [hn])]
  simp [hn, opResult, okWindow]

/-- An operation whose header faults. -/
theorem advance_header_fault {s : State} {o : OpArgs} {rest : List BusAnswer}
    (hr : s.ret = none) (hf : s.frm = .idle) (ho : opArgs s = some o)
    (hb : s.busIn = .fault :: rest) :
    advance 4 s =
      { s with
        hdr := frame (addrOperand o.addr) o.flag, cnt := o.len, idx := 0, dir := o.kind, ferr := true
        cs := false, frm := .idle, ret := some .busFault, busIn := rest
        trace := s.trace ++ headerFaultWindow (frame (addrOperand o.addr) o.flag) } := by
  rw [show 4 = 2 + (1 + 1) from rfl, advance_add, advance_open hr hf ho, advance_succ,
    tick_of_hdr (by exact hr) (by rfl), frmHdr_fault (rest := rest) (by exact hb), advance_close (by exact hr) (by rfl)]
  simp [opResult, headerFaultWindow]

/-- A burst write, every exchange answered `ok`. -/
theorem advance_write_ok {s : State} {o : OpArgs} {r : Byte} {data rs : List Byte}
    {rest : List BusAnswer} (hr : s.ret = none) (hf : s.frm = .idle) (ho : opArgs s = some o)
    (hk : o.kind = .wr) (hn : o.len.toNat = data.length) (hl : rs.length = data.length)
    (hsrc : ∀ j (h : j < data.length), srcAt s j = some data[j])
    (hb : s.busIn = .ok r :: (oks rs ++ rest)) :
    advance (data.length + 4) s =
      { s with
        hdr := frame (addrOperand o.addr) o.flag, cnt := 0, idx := o.len, dir := .wr, ferr := false
        cs := false, frm := .idle, ret := some .ok, busIn := rest
        trace := s.trace ++ okWindow (frame (addrOperand o.addr) o.flag) r data rs } := by
  by_cases h0 : data.length = 0
  · have hd : data = [] := List.eq_nil_of_length_eq_zero h0
    subst hd
    have hrs : rs = [] := List.eq_nil_of_length_eq_zero hl
    subst hrs
    have hn0 : o.len = 0 := by bv_omega
    rw [show ([] : List Byte).length + 4 = 4 from rfl,
      advance_noData_ok hr hf ho hn0 (r := r) (rest := rest) (by simpa [oks] using hb)]
    simp [hk, hn0]
  · have hne : ¬ o.len = 0#8 := by bv_omega
    rw [show data.length + 4 = 2 + ((data.length + 1) + 1) by omega, advance_add,
      advance_open hr hf ho, advance_succ, tick_of_hdr (by exact hr) (by rfl),
      frmHdr_ok (r := r) (rest := oks rs ++ rest) (by exact hb), advance_add,
      advance_data_wr data rs hl _ rest (by exact hr) (by exact if_neg hne) (by exact hk) (by simp only; omega)
        (by simp only; omega) (by simp; bv_omega)
        (by intro j hj; simpa [srcAt] using hsrc j hj) (by rfl),
      advance_close (by exact hr) (by simp [phaseAfter, hn])]
    have e1 : (0 : Byte) + BitVec.ofNat 8 data.length = o.len := by bv_omega
    have e2 : o.len - BitVec.ofNat 8 data.length = 0 := by bv_omega
    simp only [e1, e2]
    simp [hk, opResult, okWindow]

/-- A burst write whose data byte `bad` faults after the bytes `sent`. -/
theorem advance_write_fault {s : State} {o : OpArgs} {r bad : Byte} {sent rs : List Byte}
    {rest : List BusAnswer} (hr : s.ret = none) (hf : s.frm = .idle) (ho : opArgs s = some o)
    (hk : o.kind = .wr) (hn : sent.length < o.len.toNat) (hl : rs.length = sent.length)
    (hsrc : ∀ j (h : j < sent.length), srcAt s j = some sent[j])
    (hbad : srcAt s sent.length = some bad)
    (hb : s.busIn = .ok r :: (oks rs ++ .fault :: rest)) :
    advance (sent.length + 5) s =
      { s with
        hdr := frame (addrOperand o.addr) o.flag, cnt := o.len - BitVec.ofNat 8 sent.length
        idx := BitVec.ofNat 8 sent.length, dir := .wr, ferr := true
        cs := false, frm := .idle, ret := some .busFault, busIn := rest
        trace := s.trace ++ dataFaultWindow (frame (addrOperand o.addr) o.flag) r sent rs bad } := by
  have hne : ¬ o.len = 0#8 := by bv_omega
  have hlt := o.len.isLt
  rw [show sent.length + 5 = 2 + ((sent.length + (1 + 1)) + 1) by omega, advance_add,
    advance_open hr hf ho, advance_succ, tick_of_hdr (by exact hr) (by rfl),
    frmHdr_ok (r := r) (rest := oks rs ++ .fault :: rest) (by exact hb), advance_add,
    advance_data_wr sent rs hl _ (.fault :: rest) (by exact hr) (by exact if_neg hne) (by exact hk) (by simp only; omega)
      (by simp only; omega) (by simp; bv_omega)
      (by intro j hj; simpa [srcAt] using hsrc j hj) (by rfl),
    advance_succ, tick_of_data (by exact hr) (by simp [phaseAfter, hn]),
    frmData_wr_fault (b := bad) (rest := rest) (by exact hk)
      (by
        have : sent.length % 256 = sent.length := by omega
        simpa [srcAt, this] using hbad)
      (by rfl),
    advance_close (by exact hr) (by rfl)]
  simp [hk, opResult, dataFaultWindow]

/-- A burst read, every exchange answered `ok`. -/
theorem advance_read_ok {s : State} {o : OpArgs} {r : Byte} {rs : List Byte}
    {rest : List BusAnswer} (hr : s.ret = none) (hf : s.frm = .idle) (ho : opArgs s = some o)
    (hk : o.kind = .rd) (hn : o.len.toNat = rs.length)
    (hb : s.busIn = .ok r :: (oks rs ++ rest)) :
    advance (rs.length + 4) s =
      { s with
        hdr := frame (addrOperand o.addr) o.flag, cnt := 0, idx := o.len, dir := .rd, ferr := false
        cs := false, frm := .idle, ret := some .ok, busIn := rest
        rbuf := Memory.writeFrom s.rbuf 0 rs
        trace := s.trace ++ okWindow (frame (addrOperand o.addr) o.flag) r
          (List.replicate rs.length Config.dummy) rs } := by
  have hz : ∀ l : List Byte, List.zipWith Event.x (List.replicate l.length Config.dummy) l =
      l.map (fun b => .x Config.dummy b) := by
    intro l
    induction l with
    | nil => rfl
    | cons a l ih => simp [List.replicate_succ, ih]
  by_cases h0 : rs.length = 0
  · have hd : rs = [] := List.eq_nil_of_length_eq_zero h0
    subst hd
    have hn0 : o.len = 0 := by bv_omega
    rw [show ([] : List Byte).length + 4 = 4 from rfl,
      advance_noData_ok hr hf ho hn0 (r := r) (rest := rest) (by simpa [oks] using hb)]
    simp [hk, hn0, Memory.writeFrom]
  · have hne : ¬ o.len = 0#8 := by bv_omega
    rw [show rs.length + 4 = 2 + ((rs.length + 1) + 1) by omega, advance_add,
      advance_open hr hf ho, advance_succ, tick_of_hdr (by exact hr) (by rfl),
      frmHdr_ok (r := r) (rest := oks rs ++ rest) (by exact hb), advance_add,
      advance_data_rd rs _ rest (by exact hr) (by exact if_neg hne) (by exact hk) (by simp only; omega)
        (by simp only; omega) (by simp; bv_omega) (by rfl),
      advance_close (by exact hr) (by simp [phaseAfter, hn])]
    have e1 : (0 : Byte) + BitVec.ofNat 8 rs.length = o.len := by bv_omega
    have e2 : o.len - BitVec.ofNat 8 rs.length = 0 := by bv_omega
    simp only [e1, e2]
    simp [hk, opResult, okWindow, hz]

/-- A burst read whose data phase faults after the bytes `rs`. -/
theorem advance_read_fault {s : State} {o : OpArgs} {r : Byte} {rs : List Byte}
    {rest : List BusAnswer} (hr : s.ret = none) (hf : s.frm = .idle) (ho : opArgs s = some o)
    (hk : o.kind = .rd) (hn : rs.length < o.len.toNat)
    (hb : s.busIn = .ok r :: (oks rs ++ .fault :: rest)) :
    advance (rs.length + 5) s =
      { s with
        hdr := frame (addrOperand o.addr) o.flag, cnt := o.len - BitVec.ofNat 8 rs.length
        idx := BitVec.ofNat 8 rs.length, dir := .rd, ferr := true
        cs := false, frm := .idle, ret := some .busFault, busIn := rest
        rbuf := Memory.writeFrom s.rbuf 0 rs
        trace := s.trace ++ dataFaultWindow (frame (addrOperand o.addr) o.flag) r
          (List.replicate rs.length Config.dummy) rs Config.dummy } := by
  have hz : ∀ l : List Byte, List.zipWith Event.x (List.replicate l.length Config.dummy) l =
      l.map (fun b => .x Config.dummy b) := by
    intro l
    induction l with
    | nil => rfl
    | cons a l ih => simp [List.replicate_succ, ih]
  have hne : ¬ o.len = 0#8 := by bv_omega
  have hlt := o.len.isLt
  rw [show rs.length + 5 = 2 + ((rs.length + (1 + 1)) + 1) by omega, advance_add,
    advance_open hr hf ho, advance_succ, tick_of_hdr (by exact hr) (by rfl),
    frmHdr_ok (r := r) (rest := oks rs ++ .fault :: rest) (by exact hb), advance_add,
    advance_data_rd rs _ (.fault :: rest) (by exact hr) (by exact if_neg hne) (by exact hk) (by simp only; omega)
      (by simp only; omega) (by simp; bv_omega) (by rfl),
    advance_succ, tick_of_data (by exact hr) (by simp [phaseAfter, hn]),
    frmData_rd_fault (rest := rest) (by exact hk) (by rfl), advance_close (by exact hr) (by rfl)]
  simp [hk, opResult, dataFaultWindow, hz]

end Sys2Proof.Machine
end

