-- ==== Sys2Proof/Tests/Slice0.lean ====
section
/-! SUPPORT. Tests/Slice0.lean: small tests, their expected results from spec/95_test_vectors.md (vector
named in each), and for every statement with hypotheses a state that meets them. -/

open Sys2Proof Sys2Proof.Machine

namespace Sys2Proof.Tests

/-! ## Well-formedness: each check refuses an ill-formed term -/

theorem test_wf_strobe : (Instr.strobe 0x40).wf = false := by decide
theorem test_wf_wburst : (Instr.wburst 0x80 1).wf = false := by decide
theorem test_wf_rburst : (Instr.rburst 0xBA 1).wf = false := by decide
theorem test_wf_hdrReserved : (Instr.hdrReserved 0xFF).wf = false := by decide
theorem test_wf_accepts : (Instr.strobe 0x3F).wf = true ∧ (Instr.tx 255).wf = true := by decide

/-! ## Decoding: a word for every constructor, from R83, R86, R88 and R89 -/

theorem test_decode_strobe : decode (.cmd3 0b000 0b110101 0 false) = .strobe 0x35 := by decide
theorem test_decode_strobe_header : decode (.hdr8 0b00111111 0) = .strobe 0x3F := by decide
theorem test_decode_wburst : decode (.cmd3 0b001 0b111111 2 false) = .wburst 0x3F 2 := by decide
theorem test_decode_wburst_header : decode (.hdr8 0b01110101 1) = .wburst 0x35 1 := by decide
theorem test_decode_rburst : decode (.cmd3 0b011 0b000000 3 false) = .rburst 0x00 3 := by decide
theorem test_decode_rburst_header : decode (.hdr8 0b11000000 3) = .rburst 0x00 3 := by decide
theorem test_decode_hdrReserved : decode (.hdr8 0b10111010 1) = .hdrReserved 0x3A := by decide
theorem test_decode_sidle : decode (.hdr8 0b00110110 0) = .sidle := by decide
theorem test_decode_stx : decode (.hdr8 0b00110101 0) = .stx := by decide
theorem test_decode_wrPatable : decode (.hdr8 0b01111110 8) = .wrPatable 8 := by decide
theorem test_decode_wrConfig : decode (.hdr8 0b01000000 47) = .wrConfig 47 := by decide
theorem test_decode_wrTxfifo : decode (.hdr8 0b01111111 255) = .wrTxfifo 255 := by decide
theorem test_decode_rdTxstatus : decode (.hdr8 0b11111010 1) = .rdTxstatus := by decide
/-- The length beside RD_TXSTATUS's header is not read (log entry 26); its record is RBURST 0x3A, 1 (R92). -/
theorem test_record_rdTxstatus :
    decode (.hdr8 0b11111010 5) = .rdTxstatus ∧
    (PortWord.hdr8 0b11111010 5).record = .cmd3 0b011 0x3A 1 false := by decide
theorem test_decode_init : decode (.cmd3 0b100 0 0 false) = .init := by decide
theorem test_decode_tx : decode (.cmd3 0b101 0 4 false) = .tx 4 := by decide
theorem test_decode_wait : decode (.cmd3 0b110 0 0 true) = .wait true := by decide
theorem test_decode_cmdReserved010 : decode (.cmd3 0b010 0 0 false) = .cmdReserved010 := by decide
theorem test_decode_cmdReserved111 : decode (.cmd3 0b111 0 0 false) = .cmdReserved111 := by decide

/-- Table words: a command code and a header byte; a width the table does not have. -/
theorem test_decodeTableWord :
    decodeTableWord 3 0b101 = some (.tx 0) ∧ decodeTableWord 8 0xFA = some .rdTxstatus ∧
    decodeTableWord 16 0 = none := by decide

/-- Vector B1 and its masked rows (C1). -/
theorem test_frame :
    frame 0x3A 0xC0 = 0xFA ∧ frame 0x3F 0x40 = 0x7F ∧ frame 0x7F 0x00 = 0x3F ∧
    frame 0xFF 0x40 = 0x7F ∧ frame 0xBA 0xC0 = 0xFA ∧ frame 0xC0 0x00 = 0x00 := by decide

/-! ## A bench: the reset state with the straps and the test profile of spec/95, agents that answer as
listed, and a pace that runs the command under test in one step -/

/-- `CFG_TEST[i] = i`. -/
def profile : Vector Byte 47 := ⟨((List.range 47).map (BitVec.ofNat 8)).toArray, by simp⟩

/-- The straps of spec/95: `IDLE_LEVEL = 0`. -/
def straps (limit : PollLimit) (policy : Policy) : Straps := ⟨false, limit, policy⟩

/-- A ready block. -/
def bench (pace : Nat) (limit : PollLimit) (policy : Policy) (data : List Byte)
    (bus : List BusAnswer) (pin : List Level) : State :=
  { State.reset with
    cfg := profile, straps := straps limit policy, sync := ⟨true, true⟩
    dbuf := Memory.writeFrom [] 0 data, busIn := bus, pinIn := pin, pace := pace }

/-- The bench with the straps most tests use. -/
def plain (data : List Byte) (bus : List BusAnswer) (pin : List Level) : State :=
  bench 10 .unbounded .signalPoll data bus pin

/-- The same with a pace that runs the longest commands in one step. -/
def long (data : List Byte) (bus : List BusAnswer) (pin : List Level) : State :=
  bench 400 .unbounded .signalPoll data bus pin

/-- The events of a next state. -/
def eventsOf : Host.Outcome State Fault Refusal → List Event
  | .next t => t.trace
  | .fault _ => []
  | .refused _ => []

/-- One field of a next state. -/
def field {α : Type} (f : State → α) : Host.Outcome State Fault Refusal → Option α
  | .next t => some (f t)
  | .fault _ => none
  | .refused _ => none

/-! ## One step of each instruction -/

/-- Vector B2, row 1. -/
theorem test_strobe_ok :
    eventsOf (exec (.strobe 0x36) (plain [] [.ok 0x0F] [])) =
      [.csAssert, .x 0x36 0x0F, .csDeassert, .rsp .ok .none] := by decide

/-- Vector B2, row 5; the address is masked (B1: `0x76` is `0x36`). -/
theorem test_strobe_fault :
    eventsOf (exec (.strobe 0x76) (plain [] [.fault] [])) =
      [.csAssert, .xf 0x36, .csDeassert, .rsp .busFault .none] := by decide

/-- Vector B3, row 1. -/
theorem test_wburst_ok :
    eventsOf (exec (.wburst 0x3F 2) (plain [0x31, 0x32] [.ok 1, .ok 2, .ok 3] [])) =
      [.csAssert, .x 0x7F 1, .x 0x31 2, .x 0x32 3, .csDeassert, .rsp .ok .none] := by decide

/-- Vector B3, fault at data[1]; the framer's registers after it are those of program P4, command 2. -/
theorem test_wburst_fault :
    field (fun t => (t.trace, t.hdr, t.cnt, t.idx, t.dir, t.ferr))
      (exec (.wburst 0x3F 3) (plain [1, 2, 3] [.ok 0, .ok 0, .fault] [])) =
      some ([.csAssert, .x 0x7F 0, .x 1 0, .xf 2, .csDeassert, .rsp .busFault .none],
        0x7F, 2, 1, .wr, true) := by
  decide

/-- Vector B4, row 4. -/
theorem test_rburst_ok :
    field (fun t => (t.trace, t.rspRlen, hostReadRbuf 2 t, hostReadRbuf 3 t))
      (exec (.rburst 0x00 3) (plain [] [.ok 9, .ok 0x29, .ok 0x2E, .ok 0x06] [])) =
      some ([.csAssert, .x 0xC0 9, .x 0 0x29, .x 0 0x2E, .x 0 0x06, .csDeassert,
        .rsp .ok (.data [0x29, 0x2E, 0x06])], 3, some 0x06, none) := by decide

/-- Vector B4, row 7. -/
theorem test_rburst_fault :
    field (fun t => (t.trace, t.rspRlen, hostReadRbuf 0 t))
      (exec (.rburst 0x00 3) (plain [] [.ok 9, .ok 0x29, .fault] [])) =
      some ([.csAssert, .x 0xC0 9, .x 0 0x29, .xf 0, .csDeassert, .rsp .busFault .none], 0, none) := by
  decide

/-- Vector B2, row 1, as the alias of R92. -/
theorem test_sidle :
    eventsOf (exec .sidle (plain [] [.ok 0] [])) =
      [.csAssert, .x 0x36 0, .csDeassert, .rsp .ok .none] := by decide

/-- Vector B2, row 2. -/
theorem test_stx :
    eventsOf (exec .stx (plain [] [.ok 0] [])) =
      [.csAssert, .x 0x35 0, .csDeassert, .rsp .ok .none] := by decide

/-- Vector A2: header `0x7E`. -/
theorem test_wrPatable :
    eventsOf (exec (.wrPatable 1) (plain [0xC0] [.ok 0, .ok 0] [])) =
      [.csAssert, .x 0x7E 0, .x 0xC0 0, .csDeassert, .rsp .ok .none] := by decide

/-- Vector B3, row 4. -/
theorem test_wrConfig :
    eventsOf (exec (.wrConfig 3) (plain [0x29, 0x2E, 0x06] (List.replicate 4 (.ok 0)) [])) =
      [.csAssert, .x 0x40 0, .x 0x29 0, .x 0x2E 0, .x 0x06 0, .csDeassert, .rsp .ok .none] := by
  decide

/-- Vector B3, row 2: an empty burst is a window with its header alone. -/
theorem test_wrTxfifo :
    eventsOf (exec (.wrTxfifo 0) (plain [] [.ok 0] [])) =
      [.csAssert, .x 0x7F 0, .csDeassert, .rsp .ok .none] := by decide

/-- Vector B4, row 2: the byte read is not masked. -/
theorem test_rdTxstatus :
    eventsOf (exec .rdTxstatus (plain [] [.ok 0, .ok 0x80] [])) =
      [.csAssert, .x 0xFA 0, .x 0 0x80, .csDeassert, .rsp .ok (.data [0x80])] := by decide

/-- Vector A3 (the counts and the last table byte) and program P1, the state after command 1. -/
theorem test_init_ok :
    field (fun t => (busHeaders t.trace, t.trace.length, t.trace.drop 59, t.hdr, t.idx, t.cnt))
      (exec .init (bench 65 .unbounded .signalPoll [] (List.replicate 57 (.ok 0)) [])) =
      some ([0x7E, 0x40], 62, [.x 0x2E 0, .csDeassert, .rsp .ok .none], 0x40, 47, 0) := by
  decide

/-- Vector B7, INIT, fault at PA data byte 3. -/
theorem test_init_fault :
    eventsOf (exec .init (plain [] (List.replicate 4 (.ok 0) ++ [.fault]) [])) =
      [.csAssert, .x 0x7E 0, .x 0xC0 0, .x 0xC0 0, .x 0xC0 0, .xf 0xC0, .csDeassert,
        .rsp .busFault .none] := by decide

/-- Program P2, command 3: raw `0x82` masks to `0x02` and fails. -/
theorem test_tx_status :
    field (fun t => (t.trace, t.txstat, t.rspCode, t.rspRlen))
      (exec (.tx 2)
        (bench 25 .unbounded .signalPoll [0xAA, 0xBB] (List.replicate 6 (.ok 0) ++ [.ok 0x82]) [false])) =
      some ([.csAssert, .x 0x36 0, .csDeassert, .csAssert, .x 0x7F 0, .x 0xAA 0, .x 0xBB 0, .csDeassert,
        .csAssert, .x 0x35 0, .csDeassert, .s false, .csAssert, .x 0xFA 0, .x 0 0x82, .csDeassert,
        .rsp .txIncomplete (.txstat 0x02)], 0x02, 1, 1) := by decide

/-- Vector B7, TX, timeout in step 4 with `POLL_LIMIT = 2`. -/
theorem test_tx_timeout :
    field (fun t => (t.trace.drop 11, t.pollCnt, t.hdr, t.rspRlen))
      (exec (.tx 2)
        (bench 26 (.bounded 1) .signalPoll [0xA1, 0xA2] (List.replicate 5 (.ok 0)) [true, true])) =
      some ([.s true, .s true, .rsp .timeout .none], 2, 0x35, 0) := by decide

/-- Vector B8, row 7: a match on the last sample allowed. -/
theorem test_wait_last_sample :
    field (fun t => (t.trace, t.pollCnt))
      (exec (.wait false) (bench 4 (.bounded 2) .signalPoll [] [] [true, true, false])) =
      some ([.s true, .s true, .s false, .rsp .ok .none], 2) := by decide

/-- Vector B8, row 5. -/
theorem test_wait_timeout :
    field (fun t => (t.trace, t.pollCnt))
      (exec (.wait false) (bench 2 (.bounded 0) .signalPoll [] [] [true])) =
      some ([.s true, .rsp .timeout .none], 1) := by decide

/-- Vector B10, row 1. -/
theorem test_cmdReserved010 :
    field (fun t => (t.trace, t.rspCode)) (exec .cmdReserved010 (plain [] [] [])) =
      some ([.rsp .cmdIllegal .none], 4) := by decide

/-- Vector B10, row 2. -/
theorem test_cmdReserved111 :
    field (fun t => (t.trace, t.rspCode)) (exec .cmdReserved111 (plain [] [] [])) =
      some ([.rsp .cmdIllegal .none], 4) := by decide

/-- Vector B10, row 1, asked for by a header (R86, U10; log entry 12). -/
theorem test_hdrReserved :
    eventsOf (exec (.hdrReserved 0x3A) (plain [] [] [])) = [.rsp .cmdIllegal .none] := by decide

/-- Vector B9: the fixed delay takes no sample. -/
theorem test_tx_fixed_delay :
    (eventsOf (exec (.tx 0)
      (bench 23 .unbounded .fixedDelay [] (List.replicate 5 (.ok 0)) [true]))).drop 9 =
      [.dly, .csAssert, .x 0xFA 0, .x 0 0, .csDeassert, .rsp .ok (.txstat 0)] := by decide

/-- Vector B11, row 2: reset inside the FIFO write of a TX closes the window, with no response. -/
theorem test_reset_in_window :
    field (fun t => (t.trace, t.ctl, t.cs, t.rspValid))
      (step { plain [] [] [] with
        ctl := .txFifo, frm := .data, cs := true, trace := [.csAssert, .x 0x7F 0, .x 0x31 0]
        hostIn := [.reset] }) =
      some ([.csAssert, .x 0x7F 0, .x 0x31 0, .csDeassert], .ready, false, false) := by decide

/-! ## Witnesses: for every statement with hypotheses, a state and operands that meet them -/

theorem held (s : State) (data : List Byte) (h : s.dbuf = Memory.writeFrom [] 0 data) :
    dbufHolds s data := by
  intro i hi
  rw [h, Memory.read_writeFrom]
  simp [hi]

/-- A block with its framer idle, no event yet and empty buffers meets the invariant. -/
theorem inv_of_idle {s : State} (hd : s.dbuf = []) (hr : s.rbuf = []) (hf : s.frm = .idle)
    (hc : s.cs = false) (ht : s.trace = []) (hp : s.pollCnt = 0) (hv : s.rspValid = false)
    (hcode : s.rspCode = 0) (hop : s.cOp = 0)
    (hret : s.ret ≠ some .ok ∧ ∀ r, s.ret = some r → retFits s.ctl r = true) :
    s.Inv where
  dbufWf := by rw [hd]; rfl
  rbufWf := by rw [hr]; rfl
  csPhase := by rw [hc, hf]; rfl
  windows := by rw [ht]; simp [windowOf, hf, Window.run]
  idle := fun h => ⟨hf, by
    cases hx : s.ret with
    | none => rfl
    | some r =>
      have := hret.2 r hx
      rw [h] at this
      cases r <;> simp [retFits, Ctl.onBus] at this⟩
  framer := fun h => absurd hf h
  ferrClear := fun h => by simp [hf] at h
  dataLeft := fun h => by simp [hf] at h
  allDone := fun h => by simp [hf] at h
  retLegal := hret.2
  opDone := fun h => absurd h hret.1
  prim := fun _ => .inl hop
  pollZero := fun _ => hp
  pollMost := fun n _ => by omega
  pollLeft := fun _ n h => by
    rw [hp]
    cases hl : s.straps.pollLimit with
    | unbounded => simp [hl, pollBound] at h
    | bounded m => simp [hl, pollBound] at h; omega
  codes := by rw [hcode]; decide
  response := fun h => by simp [hv] at h
  validBytes := fun h => by simp [hv] at h

theorem inv_plain (pace : Nat) (bus : List BusAnswer) (pin : List Level) (limit : PollLimit)
    (policy : Policy) :
    (bench pace limit policy [] bus pin).Inv :=
  inv_of_idle rfl rfl rfl rfl rfl rfl rfl rfl rfl ⟨by simp [bench, State.reset], by
    intro r h; simp [bench, State.reset] at h⟩

theorem witness_DecodeUndoesEncode :
    (Instr.strobe 0x3F).wf = true ∧ (Instr.wburst 0x00 255).wf = true ∧
    (Instr.rburst 0x3F 0).wf = true ∧ (Instr.hdrReserved 0x3F).wf = true := by decide

theorem witness_DecodedWordKeepsItsCode :
    (PortWord.hdr8 0x3F 0).opField = 0b000#3 ∧ (PortWord.hdr8 0x40 1).opField = 0b001#3 ∧
    (PortWord.hdr8 0xFF 1).opField = 0b011#3 ∧ (PortWord.hdr8 0xFA 0).opField = 0b011#3 ∧
    (PortWord.cmd3 0b011 0x3F 255 false).opField = 0b011#3 := by decide

theorem witness_FrameMasksTheAddress : ∃ f : Byte, f = 0x00#8 ∨ f = 0x40#8 ∨ f = 0xC0#8 :=
  ⟨0xC0, .inr (.inr rfl)⟩

theorem witness_NoOperationHasAReservedHeader :
    opArgs { plain [] [] [] with ctl := .txStatus } = some (rburstArgs 0x3A 1) ∧
    (0x7F#8).toNat < 0x80 ∧ 0xC0 ≤ (0xC0#8).toNat := by decide

theorem witness_ResetInputResetsTheBlock :
    ∃ s : State, s.hostIn = .reset :: [.quiet] ∧ s.cs = true ∧ s.ctl = .txFifo :=
  ⟨{ plain [] [] [] with ctl := .txFifo, frm := .data, cs := true, hostIn := [.reset, .quiet] },
    rfl, rfl, rfl⟩

theorem witness_ReadyBlockWithoutCommandIsStill :
    ∃ s : State, s.Inv ∧ s.ctl = .ready ∧ s.hostIn = [] ∧ s.pace = 10 :=
  ⟨plain [] [] [], inv_plain _ _ _ _ _, rfl, rfl, rfl⟩

theorem witness_StepRunsTheDecodedInstruction :
    ∃ s : State, s.ctl = .ready ∧ s.hostIn = .issue (.hdr8 0xFA 1) :: [.quiet] :=
  ⟨{ plain [] [] [] with hostIn := [.issue (.hdr8 0xFA 1), .quiet] }, rfl, rfl⟩

theorem witness_HeaderWordIsItsCommandRecord :
    (∃ s : State, s.ctl = .ready ∧ s.pace = 0 ∧ s.hostIn = .issue (.hdr8 0xFA 0) :: []) ∧
    ∃ s : State, s.ctl = .ready ∧ s.pace = 0 ∧ s.hostIn = .issue (.hdr8 0x80 255) :: [.quiet] :=
  ⟨⟨{ plain [] [] [] with pace := 0, hostIn := [.issue (.hdr8 0xFA 0)] }, rfl, rfl, rfl⟩,
    ⟨{ plain [] [] [] with pace := 0, hostIn := [.issue (.hdr8 0x80 255), .quiet] }, rfl, rfl, rfl⟩⟩

theorem witness_AcceptanceLatchesTheRecord :
    (∃ s : State, s.ctl = .ready ∧ s.pace = 0 ∧
      s.hostIn = .issue (.cmd3 0b101 0x3F 255 true) :: []) ∧
    ∃ s : State, s.ctl = .ready ∧ s.pace = 400 ∧
      s.hostIn = .issue (.cmd3 0b000 0x36 0 false) :: [.quiet] :=
  ⟨⟨{ plain [] [] [] with pace := 0, hostIn := [.issue (.cmd3 0b101 0x3F 255 true)] }, rfl, rfl, rfl⟩,
    ⟨{ long [] [] [] with hostIn := [.issue (.cmd3 0b000 0x36 0 false), .quiet] }, rfl, rfl, rfl⟩⟩

theorem witness_BusyPortStalls :
    ∃ s : State, s.ctl ≠ .ready ∧ s.hostIn = .issue (.hdr8 0x36 0) :: [] :=
  ⟨{ plain [] [] [] with ctl := .wait, hostIn := [.issue (.hdr8 0x36 0)] }, by simp, rfl⟩

theorem witness_HostWritesDbufOnlyWhileReady :
    (∃ s : State, s.hostIn = .writeDbuf 254 7 :: [] ∧ (254#8).toNat < 255 ∧ s.ctl = .ready) ∧
    ∃ s : State, s.hostIn = .writeDbuf 0 7 :: [] ∧ (0#8).toNat < 255 ∧ s.ctl ≠ .ready :=
  ⟨⟨{ plain [] [] [] with hostIn := [.writeDbuf 254 7] }, rfl, by decide, rfl⟩,
    ⟨{ plain [] [] [] with ctl := .txWait, hostIn := [.writeDbuf 0 7] }, rfl, by decide, by simp⟩⟩

/-- A busy block under each of the four moves; the ignored write at an index DBUF does not have. -/
theorem witness_BlockGoesOnByItself :
    (∃ s : State, s.hostIn = [] ∧ s.ctl = .wait) ∧
    (∃ s : State, s.hostIn = .quiet :: [.reset] ∧ s.ctl = .wait) ∧
    (∃ s : State, s.ctl ≠ .ready ∧ s.hostIn = .issue (.hdr8 0x36 0) :: []) ∧
    ∃ s : State, s.ctl ≠ .ready ∧ s.hostIn = .writeDbuf 255 7 :: [] :=
  ⟨⟨{ plain [] [] [] with ctl := .wait }, rfl, rfl⟩,
    ⟨{ plain [] [] [] with ctl := .wait, hostIn := [.quiet, .reset] }, rfl, rfl⟩,
    ⟨{ plain [] [] [] with ctl := .wait, hostIn := [.issue (.hdr8 0x36 0)] }, by simp, rfl⟩,
    ⟨{ plain [] [] [] with ctl := .wait, hostIn := [.writeDbuf 255 7] }, by simp, rfl⟩⟩

/-- A ready block with a command, at a pace that runs it and at one that does not; a busy block. -/
theorem witness_PaceOnlyGroupsSmallSteps :
    (∃ s : State, s.ctl = .ready ∧ s.pace = 10 ∧ s.hostIn = [.issue (.hdr8 0x36 0)]) ∧
    (∃ s : State, s.ctl = .ready ∧ s.pace = 2 ∧ s.hostIn = [.issue (.cmd3 0b100 0 0 false)]) ∧
    (∃ s : State, s.ctl = .txFifo ∧ s.pace = 10 ∧ s.hostIn = [.quiet]) ∧
    ∃ s : State, s.ctl = .txFifo ∧ s.pace = 0 ∧ s.hostIn = [] :=
  ⟨⟨{ plain [] [] [] with hostIn := [.issue (.hdr8 0x36 0)] }, rfl, rfl, rfl⟩,
    ⟨{ plain [] [] [] with pace := 2, hostIn := [.issue (.cmd3 0b100 0 0 false)] }, rfl, rfl, rfl⟩,
    ⟨{ plain [] [] [] with ctl := .txFifo, hostIn := [.quiet] }, rfl, rfl, rfl⟩,
    ⟨{ plain [] [] [] with ctl := .txFifo, pace := 0 }, rfl, rfl, rfl⟩⟩

theorem witness_WriteBeyondDbufFaults :
    ∃ s : State, s.ctl = .ready ∧ s.hostIn = .writeDbuf 255 7 :: [] :=
  ⟨{ plain [] [] [] with hostIn := [.writeDbuf 255 7] }, rfl, rfl⟩

theorem witness_ConstantsNeverChange :
    ∃ s t : State, step s = .next t ∧ s.hostIn = .issue (.cmd3 0b100 0 0 false) :: [] :=
  ⟨{ plain [] [] [] with hostIn := [.issue (.cmd3 0b100 0 0 false)] }, _, rfl, rfl⟩

theorem witness_OnlyTheHostChangesDbuf :
    ∃ s t : State, step s = .next t ∧ (∀ moves, s.hostIn ≠ .reset :: moves) ∧
      ∀ index value moves, s.hostIn = .writeDbuf index value :: moves →
        s.ctl = .ready → index.toNat ≠ 3 :=
  ⟨{ plain [1, 2, 3, 4] [] [] with hostIn := [.writeDbuf 2 9] }, _, rfl, by simp, by
    intro index value moves h _
    simp at h
    rw [← h.1.1]
    decide⟩

/-- A controller that takes an error just returned. -/
def failing (c : Ctl) (r : Ret) : State := { plain [] [] [] with ctl := c, ret := some r }

theorem inv_failing {c : Ctl} {r : Ret} (h : r ≠ .ok ∧ retFits c r = true) : (failing c r).Inv :=
  inv_of_idle rfl rfl rfl rfl rfl rfl rfl rfl rfl ⟨by simp [failing, h.1], by
    intro r' hr; simp [failing] at hr; subst hr; exact h.2⟩

theorem witness_ControllerFollowsItsTable :
    (∃ s : State, s.ctl = .ready ∧ s.pace = 0) ∧
    (∃ s : State, s.Inv ∧ (tick s).ctl = .ready ∧ s.ctl = .txFifo) ∧
    ∃ s : State, s.Inv ∧ (tick s).ctl = .ready ∧ s.ctl = .txWait :=
  ⟨⟨{ plain [] [] [] with pace := 0 }, rfl, rfl⟩,
    ⟨failing .txFifo .busFault, inv_failing (by decide), rfl, rfl⟩,
    ⟨failing .txWait .timeout, inv_failing (by decide), rfl, rfl⟩⟩

/-- A host primitive just accepted. -/
def primStart : State := { plain [] [.ok 0] [] with ctl := .prim }

theorem inv_primStart : primStart.Inv :=
  inv_of_idle rfl rfl rfl rfl rfl rfl rfl rfl rfl ⟨by simp [primStart, plain, bench, State.reset], by
    intro r h; simp [primStart, plain, bench, State.reset] at h⟩

theorem witness_FramerFollowsItsTable : ∃ s : State, s.Inv ∧ (tick s).frm ≠ .idle :=
  ⟨primStart, inv_primStart, by decide⟩

/-- A WAIT, or a TX in its completion wait. -/
def waiting (c : Ctl) : State := { plain [] [] [true] with ctl := c }

theorem inv_waiting (c : Ctl) : (waiting c).Inv :=
  inv_of_idle rfl rfl rfl rfl rfl rfl rfl rfl rfl ⟨by simp [waiting, plain, bench, State.reset], by
    intro r h; simp [waiting, plain, bench, State.reset] at h⟩

theorem witness_SamplesOnlyOutsideWindows :
    (∃ s : State, s.Inv ∧ s.ctl = .wait ∧ (tick s).trace = s.trace ++ [.s true]) ∧
    ∃ s : State, s.Inv ∧ s.ctl = .txWait ∧ (tick s).trace = s.trace ++ [.s true] :=
  ⟨⟨waiting .wait, inv_waiting _, rfl, by decide⟩, ⟨waiting .txWait, inv_waiting _, rfl, by decide⟩⟩

/-- A TX whose status read has just returned `Ok`. -/
def statusRead : State :=
  { plain [] [] [] with
    ctl := .txStatus, ret := some .ok, hdr := 0xFA, cnt := 0, idx := 1, dir := .rd, rbuf := [(0, 0x85)] }

theorem inv_statusRead : statusRead.Inv where
  dbufWf := by decide
  rbufWf := by decide
  csPhase := by decide
  windows := by decide
  idle := by decide
  framer := fun h => absurd rfl h
  ferrClear := by decide
  dataLeft := by decide
  allDone := by decide
  retLegal := fun r h => by cases h; rfl
  opDone := fun _ _ => ⟨rburstArgs 0x3A 1, rfl, ⟨rfl, by decide, rfl, fun _ => by decide⟩, rfl⟩
  prim := by decide
  pollZero := fun _ => rfl
  pollMost := fun _ _ => Nat.zero_le _
  pollLeft := by decide
  codes := by decide
  response := by decide
  validBytes := by decide

theorem witness_TxstatIsWrittenInOnePlace :
    ∃ s : State, s.Inv ∧ s.ret ≠ some .busFault ∧ s.ret ≠ some .timeout ∧
      Memory.read s.rbuf 0 = some 0x85 ∧ (tick s).txstat = 0x05 :=
  ⟨statusRead, inv_statusRead, by decide, by decide, by decide, by decide⟩

theorem witness_DroppedBytesInfluenceNothing :
    (∃ s : State, s.ret = none ∧ s.frm = .hdr ∧ s.dir = .rd) ∧
    ∃ s : State, s.ret = none ∧ s.frm = .data ∧ s.dir ≠ .rd :=
  ⟨⟨{ plain [] [] [] with ctl := .txStatus, frm := .hdr, dir := .rd, cnt := 1 }, rfl, rfl, rfl⟩,
    ⟨{ plain [] [] [] with ctl := .initPa, frm := .data, dir := .wr, cnt := 8 }, rfl, rfl, by simp⟩⟩

theorem witness_FramerRunsTheOpProcedure :
    ∃ (s : State) (o : OpArgs), opArgs s = some o ∧ s.frm = .idle ∧ s.ret = none ∧ o.len = 255 :=
  ⟨{ plain [] [] [] with ctl := .txFifo, cLen := 255 }, _, rfl, rfl, rfl, rfl⟩

theorem witness_OperationIsOneWindow :
    (∃ (s : State) (o : OpArgs), opArgs s = some o ∧ s.frm = .idle ∧ s.ret = none ∧ o.len = 0) ∧
    ∃ s t : State, s.Inv ∧ step s = .next t ∧ t.frm = .idle :=
  ⟨⟨{ plain [] [] [] with ctl := .txStx }, _, rfl, rfl, rfl, rfl⟩,
    ⟨plain [] [] [], _, inv_plain _ _ _ _ _, rfl, by decide +kernel⟩⟩

theorem witness_AbortEndsTheCommand :
    (∃ s : State, s.Inv ∧ s.ret = some .busFault) ∧ ∃ s : State, s.Inv ∧ s.ret = some .timeout :=
  ⟨⟨failing .prim .busFault, inv_failing (by decide), rfl⟩,
    ⟨failing .wait .timeout, inv_failing (by decide), rfl⟩⟩

theorem witness_StrobeFollowsItsRule :
    (∃ s : State, s.ctl = .ready ∧ 5 ≤ s.pace ∧ s.busIn = .ok 0xFF :: [.fault]) ∧
    ∃ s : State, s.ctl = .ready ∧ 5 ≤ s.pace ∧ s.busIn = .fault :: [] :=
  ⟨⟨plain [] [.ok 0xFF, .fault] [], rfl, by decide, rfl⟩, ⟨plain [] [.fault] [], rfl, by decide, rfl⟩⟩

/-- The longest burst, 255 bytes; the empty one. -/
theorem witness_WburstFollowsItsRule_ok (len : Byte) :
    ∃ (s : State) (data received : List Byte), s.ctl = .ready ∧ len.toNat + 5 ≤ s.pace ∧
      data.length = len.toNat ∧ dbufHolds s data ∧ received.length = len.toNat ∧
      s.busIn = .ok 1 :: (oks received ++ [.fault]) :=
  ⟨long (List.replicate len.toNat 0xA5)
      (.ok 1 :: (oks (List.replicate len.toNat 2) ++ [.fault])) [],
    List.replicate len.toNat 0xA5, List.replicate len.toNat 2, rfl,
    by have := len.isLt; show len.toNat + 5 ≤ 400; omega,
    by simp, held _ _ rfl, by simp, rfl⟩

theorem witness_WburstFollowsItsRule_header_fault (len : Byte) :
    ∃ s : State, s.ctl = .ready ∧ len.toNat + 5 ≤ s.pace ∧ s.busIn = .fault :: [] :=
  ⟨long [] [.fault] [], rfl, by have := len.isLt; show len.toNat + 5 ≤ 400; omega, rfl⟩

/-- A fault at any data byte of any burst, the first and the last among them. -/
theorem witness_WburstFollowsItsRule_data_fault (len : Byte) (k : Nat) (hk : k < len.toNat) :
    ∃ (s : State) (sent received : List Byte), sent.length = k ∧ s.ctl = .ready ∧
      len.toNat + 5 ≤ s.pace ∧ sent.length < len.toNat ∧ dbufHolds s (sent ++ [0xEE]) ∧
      received.length = sent.length ∧ s.busIn = .ok 1 :: (oks received ++ .fault :: []) :=
  ⟨long (List.replicate k 0xA5 ++ [0xEE]) (.ok 1 :: (oks (List.replicate k 2) ++ .fault :: [])) [],
    List.replicate k 0xA5, List.replicate k 2, by simp, rfl,
    by have := len.isLt; show len.toNat + 5 ≤ 400; omega,
    by simpa using hk, held _ _ rfl, by simp, rfl⟩

theorem witness_RburstFollowsItsRule (len : Byte) :
    (∃ (s : State) (received : List Byte), s.ctl = .ready ∧ len.toNat + 5 ≤ s.pace ∧
      received.length = len.toNat ∧ s.busIn = .ok 1 :: (oks received ++ [.fault])) ∧
    (∃ s : State, s.ctl = .ready ∧ len.toNat + 5 ≤ s.pace ∧ s.busIn = .fault :: []) ∧
    ∀ k, k < len.toNat →
      ∃ (s : State) (received : List Byte), received.length = k ∧ s.ctl = .ready ∧
        len.toNat + 5 ≤ s.pace ∧ s.busIn = .ok 1 :: (oks received ++ .fault :: []) := by
  have h : len.toNat + 5 ≤ 400 := by have := len.isLt; omega
  refine ⟨⟨long [] (.ok 1 :: (oks (List.replicate len.toNat 2) ++ [.fault])) [],
      List.replicate len.toNat 2, rfl, h, by simp, rfl⟩, ⟨long [] [.fault] [], rfl, h, rfl⟩, ?_⟩
  exact fun k _ => ⟨long [] (.ok 1 :: (oks (List.replicate k 2) ++ .fault :: [])) [],
    List.replicate k 2, by simp, rfl, h, rfl⟩

theorem witness_InitFollowsItsRule :
    (∃ (s : State) (ps cs : List Byte), s.ctl = .ready ∧ 65 ≤ s.pace ∧ ps.length = 8 ∧
      cs.length = 47 ∧ s.busIn = .ok 1 :: (oks ps ++ .ok 2 :: (oks cs ++ []))) ∧
    (∃ s : State, s.ctl = .ready ∧ 65 ≤ s.pace ∧ s.busIn = .fault :: []) ∧
    (∀ k, k ≤ 8 → ∃ (s : State) (ps : List Byte), s.ctl = .ready ∧ 65 ≤ s.pace ∧ ps.length = k ∧
      s.busIn = .ok 1 :: (oks ps ++ .fault :: [])) ∧
    ∀ k, k < 47 → ∃ (s : State) (ps cs : List Byte) (bad : Byte), s.ctl = .ready ∧ 65 ≤ s.pace ∧
      ps.length = 8 ∧ cs.length = k ∧ s.cfg.toList[cs.length]? = some bad ∧
      s.busIn = .ok 1 :: (oks ps ++ .ok 2 :: (oks cs ++ .fault :: [])) := by
  have h : (65 : Nat) ≤ 400 := by omega
  refine ⟨⟨long [] (.ok 1 :: (oks (List.replicate 8 3) ++ .ok 2 :: (oks (List.replicate 47 4) ++ []))) [],
      List.replicate 8 3, List.replicate 47 4, rfl, h, by simp, by simp, rfl⟩,
    ⟨long [] [.fault] [], rfl, h, rfl⟩, ?_, ?_⟩
  · exact fun k _ => ⟨long [] (.ok 1 :: (oks (List.replicate k 3) ++ .fault :: [])) [],
      List.replicate k 3, rfl, h, by simp, rfl⟩
  · refine fun k hk => ⟨long []
      (.ok 1 :: (oks (List.replicate 8 3) ++ .ok 2 :: (oks (List.replicate k 4) ++ .fault :: []))) [],
      List.replicate 8 3, List.replicate k 4, BitVec.ofNat 8 k, rfl, h, by simp, by simp, ?_, rfl⟩
    simp [long, bench, profile, hk]

/-- The payload and the answers of TX steps 1 to 3. -/
theorem witness_TxSent (limit : PollLimit) (policy : Policy) (len : Byte) (answers : List BusAnswer)
    (pin : List Level) :
    TxSent
      (bench 400 limit policy (List.replicate len.toNat 0xA5)
        (.ok 1 :: .ok 2 :: (oks (List.replicate len.toNat 4) ++ .ok 3 :: answers)) pin)
      len (List.replicate len.toNat 0xA5) (List.replicate len.toNat 4) 1 2 3 answers :=
  ⟨rfl, by simp, held _ _ rfl, by simp, rfl⟩

/-- A line idle on the last sample a bound of 3 allows, for every payload length; also the witness of
`TxIsTheSequenceOfItsSteps`. -/
theorem witness_TxSendsAndJudges (len : Byte) :
    ∃ s : State,
      TxSent s len (List.replicate len.toNat 0xA5) (List.replicate len.toNat 4) 1 2 3
        (.ok 5 :: .ok 0x80 :: []) ∧
      s.straps.policy = .signalPoll ∧ (∀ n, pollBound s.straps.pollLimit = some n → 2 < n) ∧
      s.pinIn = List.replicate 2 (!s.straps.idleLevel) ++ s.straps.idleLevel :: [] ∧
      len.toNat + 2 + 23 ≤ s.pace :=
  ⟨_, witness_TxSent (.bounded 2) .signalPoll len _ [true, true, false], rfl,
    by intro n h; simp [bench, straps, pollBound] at h; omega, rfl,
    by have := len.isLt; show len.toNat + 2 + 23 ≤ 400; omega⟩

theorem witness_TxSendsAndJudges_delayed (len : Byte) :
    ∃ s : State,
      TxSent s len (List.replicate len.toNat 0xA5) (List.replicate len.toNat 4) 1 2 3
        (.ok 5 :: .ok 0x02 :: []) ∧
      s.straps.policy = .fixedDelay ∧ len.toNat + 23 ≤ s.pace :=
  ⟨_, witness_TxSent .unbounded .fixedDelay len _ [], rfl,
    by have := len.isLt; show len.toNat + 23 ≤ 400; omega⟩

theorem witness_TxAbortsAtTheFirstFailure_timeout (len : Byte) :
    ∃ s : State,
      TxSent s len (List.replicate len.toNat 0xA5) (List.replicate len.toNat 4) 1 2 3 [] ∧
      s.straps.policy = .signalPoll ∧ pollBound s.straps.pollLimit = some 4 ∧
      s.pinIn = List.replicate 4 (!s.straps.idleLevel) ++ [] ∧ len.toNat + 4 + 22 ≤ s.pace :=
  ⟨_, witness_TxSent (.bounded 3) .signalPoll len _ [true, true, true, true], rfl, rfl, rfl,
    by have := len.isLt; show len.toNat + 4 + 22 ≤ 400; omega⟩

theorem witness_TxAbortsAtTheFirstFailure_before_the_wait :
    (∃ s : State, s.ctl = .ready ∧ (2#8).toNat + 15 ≤ s.pace ∧ s.busIn = .fault :: []) ∧
    (∃ s : State, s.ctl = .ready ∧ (2#8).toNat + 15 ≤ s.pace ∧ s.busIn = .ok 1 :: .fault :: []) ∧
    (∃ s : State, s.ctl = .ready ∧ (2#8).toNat + 15 ≤ s.pace ∧ dbufHolds s ([0xA1] ++ [0xA2]) ∧
      [0xA1#8].length < (2#8).toNat ∧ s.busIn = .ok 1 :: .ok 2 :: (oks [4] ++ .fault :: [])) ∧
    ∃ s : State, s.ctl = .ready ∧ (2#8).toNat + 15 ≤ s.pace ∧ dbufHolds s [0xA1, 0xA2] ∧
      [0xA1#8, 0xA2#8].length = (2#8).toNat ∧
      s.busIn = .ok 1 :: .ok 2 :: (oks [4, 5] ++ .fault :: []) :=
  ⟨⟨long [] [.fault] [], rfl, by decide, rfl⟩,
    ⟨long [] [.ok 1, .fault] [], rfl, by decide, rfl⟩,
    ⟨long [0xA1, 0xA2] [.ok 1, .ok 2, .ok 4, .fault] [], rfl, by decide, held _ _ rfl, by decide, rfl⟩,
    ⟨long [0xA1, 0xA2] [.ok 1, .ok 2, .ok 4, .ok 5, .fault] [], rfl, by decide, held _ _ rfl,
      by decide, rfl⟩⟩

theorem witness_TxAbortsAtTheFirstFailure_status_read (len : Byte) (answers : List BusAnswer) :
    ∃ s : State,
      TxSent s len (List.replicate len.toNat 0xA5) (List.replicate len.toNat 4) 1 2 3 answers ∧
      s.straps.policy = .signalPoll ∧ (∀ n, pollBound s.straps.pollLimit = some n → 0 < n) ∧
      s.pinIn = List.replicate 0 (!s.straps.idleLevel) ++ s.straps.idleLevel :: [] ∧
      len.toNat + 0 + 23 ≤ s.pace :=
  ⟨_, witness_TxSent .unbounded .signalPoll len _ [false], rfl,
    by intro n h; simp [bench, straps, pollBound] at h, rfl,
    by have := len.isLt; show len.toNat + 0 + 23 ≤ 400; omega⟩

theorem witness_TxAbortsAtTheFirstFailure_delayed_status_read (len : Byte) (answers : List BusAnswer) :
    ∃ s : State,
      TxSent s len (List.replicate len.toNat 0xA5) (List.replicate len.toNat 4) 1 2 3 answers ∧
      s.straps.policy = .fixedDelay ∧ len.toNat + 23 ≤ s.pace :=
  ⟨_, witness_TxSent .unbounded .fixedDelay len _ [], rfl,
    by have := len.isLt; show len.toNat + 23 ≤ 400; omega⟩

theorem witness_WaitFollowsItsRule :
    (∃ s : State, s.ctl = .ready ∧ 2 + 2 ≤ s.pace ∧
      (∀ n, pollBound s.straps.pollLimit = some n → 2 < n) ∧
      s.pinIn = List.replicate 2 (!true) ++ true :: []) ∧
    (∃ s : State, s.ctl = .ready ∧ s.cs = false ∧ 1 + 1 ≤ s.pace ∧
      pollBound s.straps.pollLimit = some 1 ∧ s.pinIn = List.replicate 1 (!false) ++ []) ∧
    ∃ s : State, s.ctl = .ready ∧ s.pace = 3 ∧ s.straps.pollLimit = .unbounded ∧
      s.pinIn = List.replicate 3 (!false) ++ [] :=
  ⟨⟨bench 400 (.bounded 2) .signalPoll [] [] [false, false, true], rfl, by decide,
      by intro n h; simp [bench, straps, pollBound] at h; omega, rfl⟩,
    ⟨bench 400 (.bounded 0) .signalPoll [] [] [true], rfl, rfl, by decide, rfl, rfl⟩,
    ⟨{ plain [] [] [true, true, true] with pace := 3 }, rfl, rfl, rfl, rfl⟩⟩

theorem witness_WaitLoopEndsByMatchOrBound :
    (∃ s : State, polling s = true ∧ s.frm = .idle ∧ s.ctl = .txWait) ∧
    (∃ s : State, polling s = true ∧ s.frm = .idle ∧ s.straps.pollLimit = .unbounded ∧
      s.pinIn = List.replicate 3 (!s.tgtLevel) ++ []) ∧
    ∃ s : State, polling s = true ∧ s.frm = .idle ∧ s.pollCnt = 0 ∧
      pollBound s.straps.pollLimit = some 1 :=
  ⟨⟨waiting .txWait, by decide, rfl, rfl⟩,
    ⟨{ plain [] [] [true, true, true] with ctl := .wait }, by decide, rfl, rfl, rfl⟩,
    ⟨{ bench 400 (.bounded 0) .signalPoll [] [] [] with ctl := .wait }, by decide, rfl, rfl, rfl⟩⟩

theorem witness_ReservedCodesAreAnsweredIllegal :
    (∃ s : State, s.ctl = .ready ∧ 1 ≤ s.pace) ∧ ∃ s : State, s.ctl = .ready ∧ s.pace = 0 :=
  ⟨⟨{ plain [] [] [] with pace := 1 }, rfl, by simp⟩, ⟨{ plain [] [] [] with pace := 0 }, rfl, rfl⟩⟩

theorem witness_ReservedHeaderIsAnsweredIllegal : ∃ s : State, s.ctl = .ready ∧ 1 ≤ s.pace :=
  ⟨plain [] [] [], rfl, by decide⟩

/-- The longest TX, its wait bounded by 3 samples. -/
theorem witness_EveryBoundedCommandIsAnswered :
    ∃ s : State, s.Inv ∧ s.ctl = .ready ∧ waitBound s.straps (.tx 255) = some 3 ∧
      smallStepsOf 3 (.tx 255) ≤ s.pace :=
  ⟨bench 400 (.bounded 2) .signalPoll [] [] [], inv_plain _ _ _ _ _, rfl, by decide, by decide⟩

theorem witness_OnlyTheTableAnswers :
    (∃ s t : State, s.ctl = .ready ∧ exec .stx s = .next t ∧ t.ctl = .ready) ∧
    ∃ s t : State, s.ctl = .ready ∧ exec .stx s = .next t ∧ t.ctl ≠ .ready :=
  ⟨⟨plain [] [.ok 0] [], _, rfl, rfl, by decide⟩,
    ⟨{ plain [] [.ok 0] [] with pace := 2 }, _, rfl, rfl, by decide⟩⟩

theorem witness_GoodCommandsSendTheirHeaders :
    ∃ s t : State, s.Inv ∧ s.ctl = .ready ∧ exec .sidle s = .next t ∧ t.ctl = .ready ∧
      t.rspCode = RspKind.code .ok :=
  ⟨plain [] [.ok 0] [], _, inv_plain _ _ _ _ _, rfl, rfl, by decide, by decide⟩

theorem witness_GoodCommandsSendTheirHeaders_incomplete :
    ∃ s t : State, s.Inv ∧ s.ctl = .ready ∧ exec (.tx 0) s = .next t ∧ t.ctl = .ready ∧
      t.rspCode = RspKind.code .txIncomplete :=
  ⟨bench 23 .unbounded .signalPoll [] (List.replicate 4 (.ok 0) ++ [.ok 0x7F]) [false], _,
    inv_plain _ _ _ _ _, rfl, rfl,
    by decide, by decide⟩

theorem witness_InitIsTheSequenceOfItsSteps :
    ∃ (s : State) (m1 m2 : Memory), s.ctl = .ready ∧ 65 ≤ s.pace ∧
      s.busIn = .ok 1 :: (oks (List.replicate 8 3) ++ .ok 2 :: (oks (List.replicate 47 4) ++ [])) ∧
      dbufHolds { s with dbuf := m1 } (List.replicate 8 s.pa0) ∧
      dbufHolds { s with dbuf := m2 } s.cfg.toList :=
  ⟨long [] (.ok 1 :: (oks (List.replicate 8 3) ++ .ok 2 :: (oks (List.replicate 47 4) ++ []))) [],
    _, _, rfl, by decide, rfl, held _ _ rfl, held _ _ rfl⟩

/-- The frames (CommandsLeaveTheirSurroundings, SendingCommandsLeaveTheRest, ReadingCommandsLeaveTheRest,
TxLeavesTheRest, WaitLeavesTheRest): commands that end well and commands that are aborted. -/
theorem witness_frames :
    (∀ s : State, s.ctl = .ready → ∀ i, ∃ t, exec i s = .next t) ∧
    (∃ t, exec (.rburst 0x00 1) (plain [] [.ok 0, .ok 1] []) = .next t ∧ t.rspCode = 0) ∧
    (∃ t, exec (.tx 0) (bench 23 .unbounded .signalPoll [] (List.replicate 5 (.ok 0)) [false]) = .next t ∧
      t.rspCode = 0) ∧
    (∃ t, exec (.wait true) (plain [] [] [true]) = .next t ∧ t.rspCode = 0) ∧
    (∃ t, exec .stx (plain [] [.fault] []) = .next t ∧ t.rspCode = 3) ∧
    ∃ t, exec (.wait true) (bench 2 (.bounded 0) .signalPoll [] [] [false]) = .next t ∧ t.rspCode = 2 := by
  refine ⟨?_, ⟨_, rfl, by decide⟩, ⟨_, rfl, by decide⟩, ⟨_, rfl, by decide⟩,
    ⟨_, rfl, by decide⟩, ⟨_, rfl, by decide⟩⟩
  intro s h i
  have hr : s.ready = true := by simp [State.ready, h]
  cases i <;>
    simp [exec, execStrobe, execWburst, execRburst, execHdrReserved, execSidle, execStx,
      execWrPatable, execWrConfig, execWrTxfifo, execRdTxstatus, execInit, execTx, execWait,
      execCmdReserved010, execCmdReserved111, command, hr]

theorem witness_WaitLeavesTheRest :
    ∃ s t : State, s.Inv ∧ s.ctl = .ready ∧ exec (.wait true) s = .next t :=
  ⟨plain [] [] [true], _, inv_plain _ _ _ _ _, rfl, rfl⟩

theorem witness_ReservedCommandsLeaveTheRest :
    (∃ s t : State, s.ctl = .ready ∧ exec (.hdrReserved 0x3F) s = .next t ∧ t.ctl = .ready) ∧
    ∃ s t : State, s.ctl = .ready ∧ exec .cmdReserved111 s = .next t ∧ t.ctl = .illegal :=
  ⟨⟨plain [] [] [], _, rfl, rfl, by decide⟩, ⟨{ plain [] [] [] with pace := 0 }, _, rfl, rfl, by decide⟩⟩

theorem witness_SynchronizerMovesOnlyAtASample :
    (∃ s : State, (tick s).trace = s.trace ++ [.s true]) ∧
    ∃ s : State, ∀ v, (tick s).trace ≠ s.trace ++ [.s v] :=
  ⟨⟨waiting .wait, by decide⟩, ⟨primStart, by decide⟩⟩

/-- After RBURST, vector B4, row 1: a response, one byte of RBUF and no `txstat`; nothing before it. -/
theorem witness_HostReadsOnlyAPostedResponse :
    field (fun t => (hostReadRsp t, hostReadTxstat t, hostReadRbuf 0 t, hostReadRbuf 1 t))
      (exec .rdTxstatus (plain [] [.ok 0, .ok 0x05] [])) =
      some (some (0, 1), none, some 0x05, none) ∧
    hostReadRsp (plain [] [] []) = none := by decide

/-- After TX, vector A5's status byte: `txstat` is read; while it runs nothing is. -/
theorem witness_HostReadsWhatTheCommandLeft :
    (∃ s t : State, s.Inv ∧ s.ctl = .ready ∧ exec (.tx 0) s = .next t ∧ t.ctl = .ready ∧
      hostReadTxstat t = some 0x05) ∧
    ∃ s t : State, s.Inv ∧ s.ctl = .ready ∧ exec (.tx 0) s = .next t ∧ t.ctl ≠ .ready :=
  ⟨⟨bench 23 .unbounded .signalPoll [] (List.replicate 4 (.ok 0) ++ [.ok 0x05]) [false], _,
      inv_plain _ _ _ _ _, rfl, rfl, by decide +kernel, by decide +kernel⟩,
    ⟨bench 3 .unbounded .signalPoll [] [.ok 0] [], _, inv_plain _ _ _ _ _, rfl, rfl, by decide⟩⟩

theorem witness_EveryStepKeepsTheInvariant :
    (∃ s t : State, s.Inv ∧ step s = .next t ∧ t.frm = .sel) ∧
    ∃ s t : State, s.Inv ∧ step s = .next t ∧ t.rspCode = 4 :=
  ⟨⟨{ primStart with pace := 0 }, _,
      inv_of_idle rfl rfl rfl rfl rfl rfl rfl rfl rfl
        ⟨by simp [primStart, plain, bench, State.reset], by
          intro r h; simp [primStart, plain, bench, State.reset] at h⟩, rfl, by decide⟩,
    ⟨{ plain [] [] [] with hostIn := [.issue (.cmd3 0b111 0 0 false)] }, _,
      inv_of_idle rfl rfl rfl rfl rfl rfl rfl rfl rfl
        ⟨by simp [plain, bench, State.reset], by
          intro r h; simp [plain, bench, State.reset] at h⟩, rfl, by decide⟩⟩

end Sys2Proof.Tests
end

section
/-! SUPPORT. Proofs/Grouping.lean: what one step of the machine groups (R6, R29, R31; log entries 1 and 5). -/

namespace Sys2Proof.Machine

/-! ## Steps of the block alone -/

/-- Settles O53: each of these moves falls through `step` to the small steps of the pace. -/
theorem blockGoesOnByItself : Obligations.BlockGoesOnByItself := by
  intro s
  refine ⟨step_of_no_move, fun moves h => ?_,
    fun hbusy => ⟨fun w moves h => ?_, fun i v moves h => ?_⟩⟩
  · simp [step, h, takeMove, proceed]
  · simp [step, h, stepIssue, State.ready, hbusy, proceed]
  · simp [step, h, hostWrite, takeMove, State.busy, State.ready, hbusy, proceed]

theorem step_of_quiet {s : State} {moves : List HostMove} (h : s.hostIn = .quiet :: moves) :
    step s = .next (proceed (takeMove s)) := by
  simp [step, h]

/-- A command on the port of a ready block is run on the latched record (R25, R29). -/
theorem step_of_issue {s : State} {w : PortWord} {moves : List HostMove} (hc : s.ctl = .ready)
    (h : s.hostIn = .issue w :: moves) :
    step s = exec (decode w) (latchRecord w (takeMove s)) := by
  simp [step, h, stepIssue, State.ready, hc]

/-! ## Acceptance and the pace -/

/-- An instruction at pace 0 is its acceptance. -/
theorem exec_pace_zero {s : State} (h : s.ctl = .ready) (i : Instr) :
    exec i (withPace 0 s) = .next (withPace 0 (accepted i s)) := by
  rw [exec_ready (by exact h), accepted_withPace]; rfl

theorem accepted_pace (i : Instr) (s : State) : (accepted i s).pace = s.pace := by
  obtain ⟨-, -, -, -, -, -, -, -, -, -, -, -, -, hp⟩ := accepted_rest i s
  exact hp

theorem accepted_hostIn (i : Instr) (s : State) : (accepted i s).hostIn = s.hostIn := by
  obtain ⟨-, -, -, -, -, -, -, -, -, -, hh, -, -, -⟩ := accepted_rest i s
  exact hh

/-- An instruction at any pace is its acceptance at pace 0 and then the small steps of the pace. -/
theorem exec_after_acceptance {s : State} (h : s.ctl = .ready) (i : Instr) :
    exec i s = .next (withPace s.pace (advance s.pace (withPace 0 (accepted i s)))) := by
  rw [advance_under_pace _ _ (accepted_pace i s), exec_ready h]

/-- Once the host has no move left, a step at pace 0 and `s.pace` more are `s.pace` small steps after the
first. -/
theorem run_after_first {s u : State} (hstep : step (withPace 0 s) = .next (withPace 0 u))
    (hu : u.hostIn = []) :
    Host.Core.run Sys2Proof.core (s.pace + 1) (withPace 0 s) =
      .next (withPace 0 (advance s.pace u)) := by
  rw [run_succ_of_next (M := Sys2Proof.core) _ hstep, ← advance_withPace]
  exact run_smallSteps _ hu rfl

/-- Settles O54: small steps and acceptance commute with the pace (Laws/Pace.lean), so only the first step
at pace 0 depends on the host's move. -/
theorem paceOnlyGroupsSmallSteps : Obligations.PaceOnlyGroupsSmallSteps := by
  refine ⟨fun i s h => ⟨_, exec_pace_zero h i, exec_after_acceptance h i⟩, fun s hmove => ?_⟩
  rcases hmove with h | h | ⟨hc, w, h⟩
  · refine ⟨_, step_of_no_move h, run_after_first (u := tick s) ?_ ((sameCommand_tick s).hostIn.trans h)⟩
    rw [step_of_no_move (by exact h), ← tick_withPace]; rfl
  · refine ⟨_, step_of_quiet h, run_after_first (u := tick (takeMove s)) ?_
      ((sameCommand_tick _).hostIn.trans (by simp [h]))⟩
    rw [step_of_quiet (by exact h), ← tick_withPace]; rfl
  · refine ⟨_, (step_of_issue hc h).trans (exec_ready (by exact hc) _), run_after_first ?_
      ((accepted_hostIn _ _).trans (by simp [h]))⟩
    rw [step_of_issue (by exact hc) (by exact h)]
    exact exec_pace_zero (s := latchRecord w (takeMove s)) hc _

/-! ## The latched record -/

/-- An address field widened to an operand and cut back is itself. -/
theorem low6_addrOperand (addr : Addr) : low6 (addrOperand addr) = addr := by
  simp [low6, addrOperand]

theorem entryOf_ne_ready (i : Instr) : entryOf i ≠ .ready := by
  cases i <;> simp [entryOf]

/-- A record's instruction latches again only what its record holds (R25; log entry 15). -/
theorem accepted_latchRecord (op : BitVec 3) (addr : Addr) (len : Byte) (level : Level) (s : State) :
    let t := accepted (decodeCmd op addr len level) (latchRecord (.cmd3 op addr len level) s)
    t.cOp = op ∧ t.cAddr = addr ∧ t.cLen = len ∧ t.cLevel = level := by
  have hlast : op ≠ 0 → op ≠ 1 → op ≠ 2 → op ≠ 3 → op ≠ 4 → op ≠ 5 → op ≠ 6 → op = 7 := by
    bv_omega
  unfold decodeCmd
  split_ifs <;>
    simp_all [accepted, acceptStrobe, acceptWburst, acceptRburst, acceptReserved, acceptInit, acceptTx,
      acceptWait, startWait, low6_addrOperand, PortWord.addrField, PortWord.lenField, PortWord.levelField]

/-- Settles O10: the latches hold the record at acceptance, and no small step writes them. -/
theorem acceptanceLatchesTheRecord : Obligations.AcceptanceLatchesTheRecord := by
  intro s op addr len level moves hc h
  have hu : (latchRecord (.cmd3 op addr len level) (takeMove s)).ctl = .ready := hc
  obtain ⟨hop, haddr, hlen, hlevel⟩ := accepted_latchRecord op addr len level (takeMove s)
  have k := sameCommand_advance s.pace
    (accepted (decodeCmd op addr len level) (latchRecord (.cmd3 op addr len level) (takeMove s)))
  refine ⟨_, (step_of_issue hc h).trans (exec_ready hu _), k.cOp.trans hop, k.cAddr.trans haddr,
    k.cLen.trans hlen, k.cLevel.trans hlevel,
    k.hostIn.trans ((accepted_hostIn _ _).trans (by simp [h])), ?_⟩
  obtain ⟨-, -, hvalid, htrace, -, hdbuf, -⟩ :=
    accepted_rest (decodeCmd op addr len level) (latchRecord (.cmd3 op addr len level) (takeMove s))
  refine ⟨_, (step_of_issue (by exact hc) (by exact h)).trans (exec_pace_zero hu _),
    (advance_under_pace _ 0 (accepted_pace _ _)).symm, hvalid,
    (accepted_ctl _ _).trans_ne (entryOf_ne_ready _), htrace, hdbuf⟩

end Sys2Proof.Machine
end

section
/-! SUPPORT. Proofs/SmallStep.lean: what one small step may produce: no response and at most one other event,
or the response alone (R6, R10, R28). -/

namespace Sys2Proof.Machine

/-- With the framer idle and nothing returned, the controller answers a reserved code, takes a sample, waits
the fixed delay, loads its operation, or rests (R89, R110, R152, R156). -/
theorem ctlIdle_cases (s : State) :
    (s.ctl = .illegal ∧ ctlIdle s = respond .cmdIllegal 0 .none s) ∨
    ((s.ctl = .wait ∨ (s.ctl = .txWait ∧ s.straps.policy = .signalPoll)) ∧
      ctlIdle s = pollSample s) ∨
    (s.ctl = .txWait ∧ s.straps.policy = .fixedDelay ∧ ctlIdle s = fixedDelay s) ∨
    (∃ o, s.ctl.onBus = true ∧ opArgs s = some o ∧ ctlIdle s = loadOp o s) ∨
    ((s.ctl.onBus = true ∨ s.ctl = .ready) ∧ opArgs s = none ∧ ctlIdle s = s) := by
  cases hc : s.ctl with
  | illegal => exact .inl ⟨rfl, by simp [ctlIdle, hc]⟩
  | wait => exact .inr (.inl ⟨.inl rfl, by simp [ctlIdle, hc]⟩)
  | txWait =>
    cases hp : s.straps.policy with
    | signalPoll => exact .inr (.inl ⟨.inr ⟨rfl, rfl⟩, by simp [ctlIdle, hc, completionWait, hp]⟩)
    | fixedDelay => exact .inr (.inr (.inl ⟨rfl, rfl, by simp [ctlIdle, hc, completionWait, hp]⟩))
  | ready =>
    have ho : opArgs s = none := by simp [opArgs, hc]
    exact .inr (.inr (.inr (.inr ⟨.inr rfl, ho, by simp [ctlIdle, hc, ho]⟩)))
  | _ =>
    cases ho : opArgs s with
    | some o => exact .inr (.inr (.inr (.inl ⟨o, rfl, rfl, by simp [ctlIdle, hc, ho]⟩)))
    | none => exact .inr (.inr (.inr (.inr ⟨.inl rfl, rfl, by simp [ctlIdle, hc, ho]⟩)))

/-- From `s` to `t` no response was posted, and at most one event produced. -/
structure Silent (s t : State) : Prop where
  events : ∃ es : List Event, t.trace = s.trace ++ es ∧ es.length ≤ 1 ∧ ∀ e ∈ es, e.isRsp = false
  rspValid : t.rspValid = s.rspValid
  /-- only a response leads back to `C_READY` (R21) -/
  ready : t.ctl = .ready → s.ctl = .ready

/-- From `s` to `t` a response was posted, the only event. -/
structure Answered (kind : RspKind) (s t : State) : Prop where
  ctl : t.ctl = .ready
  ret : t.ret = none
  frm : t.frm = s.frm
  rspValid : t.rspValid = true
  rspCode : t.rspCode = RspKind.code kind
  event : ∃ info, t.trace = s.trace ++ [.rsp kind info]

theorem Silent.of_no_event {s t : State} (ht : t.trace = s.trace) (hv : t.rspValid = s.rspValid)
    (hc : t.ctl = .ready → s.ctl = .ready) : Silent s t :=
  ⟨⟨[], by simp [ht]⟩, hv, hc⟩

theorem Silent.of_event {s t : State} (e : Event) (he : e.isRsp = false)
    (ht : t.trace = s.trace ++ [e]) (hv : t.rspValid = s.rspValid) (hc : t.ctl = s.ctl) : Silent s t :=
  ⟨⟨[e], ht, by simp, by simp [he]⟩, hv, fun h => hc.symm.trans h⟩

theorem silent_frmHdr (s : State) : Silent s (frmHdr s) := by
  obtain ⟨r, b, d, h⟩ | ⟨b, d, h⟩ := frmHdr_eq s <;> rw [h]
  · exact .of_event (.x s.hdr r) rfl rfl rfl rfl
  · exact .of_event (.xf s.hdr) rfl rfl rfl rfl

theorem silent_frmData (s : State) : Silent s (frmData s) := by
  obtain ⟨out, r, b, d, m, h, -, -⟩ | ⟨out, b, d, h⟩ := frmData_eq s <;> rw [h]
  · exact .of_event (.x out r) rfl rfl rfl rfl
  · exact .of_event (.xf out) rfl rfl rfl rfl

theorem silent_pollSample (s : State) : Silent s (pollSample s) := by
  obtain ⟨v, p, ff0, d, ⟨-, h⟩ | ⟨-, -, h⟩ | ⟨n, -, -, h⟩⟩ := pollSample_eq s <;> rw [h] <;>
    exact .of_event (.s v) rfl rfl rfl rfl

/-- The results a small step may answer with, by the value returned and the controller's state (R116, R130,
R136, R154, R178; R89 for `C_ILLEGAL`). -/
def endsWith : Option Ret → Ctl → RspKind → Bool
  | some .busFault, _, k => k == .busFault
  | some .timeout, _, k => k == .timeout
  | some .ok, .txStatus, k => k == .ok || k == .txIncomplete
  | some .ok, c, k => (c == .prim || c == .initCfg || c == .wait) && k == .ok
  | none, c, k => c == .illegal && k == .cmdIllegal

/-- `t` is reached from `s` without a response, or with one that the value `r` returned to `s` allows. -/
def SilentOrEnds (r : Option Ret) (s t : State) : Prop :=
  Silent s t ∨ ∃ k, endsWith r s.ctl k = true ∧ Answered k s t

/-- Neither looks at the returned value that the first state still holds. -/
theorem SilentOrEnds.of_ret_cleared {r : Option Ret} {s t : State}
    (h : SilentOrEnds r { s with ret := none } t) : SilentOrEnds r s t :=
  h.imp (fun ⟨he, hv, hc⟩ => ⟨he, hv, hc⟩)
    fun ⟨k, hk, hc, hr, hf, hv, ho, he⟩ => ⟨k, hk, hc, hr, hf, hv, ho, he⟩

theorem answered_respond (k : RspKind) (n : Byte) (info : RspInfo) (s : State) :
    Answered k s (respond k n info s) :=
  ⟨rfl, rfl, rfl, rfl, rfl, info, rfl⟩

theorem answered_abort (k : RspKind) (s : State) : Answered k s (abort k s) :=
  ⟨rfl, rfl, rfl, rfl, rfl, .none, rfl⟩

theorem answered_primDone (s : State) : Answered .ok s (primDone s) := by
  unfold primDone; split <;> exact answered_respond _ _ _ s

theorem txResult_ok_or_incomplete (x : BitVec 7) :
    txResult x = .ok ∨ txResult x = .txIncomplete := by
  unfold txResult; split <;> simp

theorem answered_txStatusDone (s : State) :
    ∃ k, (k = .ok ∨ k = .txIncomplete) ∧ Answered k s (txStatusDone s) := by
  obtain ⟨status, d, h, -⟩ := txStatusDone_eq s
  rw [h]
  exact ⟨_, txResult_ok_or_incomplete (maskStatus status), rfl, rfl, rfl, rfl, rfl, _, rfl⟩

theorem silent_enterTxWait (s : State) : Silent s (enterTxWait s) := by
  unfold enterTxWait; split <;> exact .of_no_event rfl rfl nofun

/-- A sub-step has returned `Ok`: the next sub-step, without an event, or the end of the command. -/
theorem afterOk_silentOrEnds (s : State) : SilentOrEnds (some .ok) s (afterOk s) := by
  unfold SilentOrEnds afterOk
  cases hc : s.ctl with
  | prim => exact .inr ⟨.ok, rfl, answered_primDone s⟩
  | initCfg | wait => exact .inr ⟨.ok, rfl, answered_respond _ _ _ s⟩
  | txStatus =>
    obtain ⟨k, hk, h⟩ := answered_txStatusDone s
    exact .inr ⟨k, by simpa [endsWith] using hk, h⟩
  | txStx => exact .inl (silent_enterTxWait s)
  | ready | illegal => exact .inl (.of_no_event rfl rfl id)
  | initPa | txSidle | txFifo | txWait => exact .inl (.of_no_event rfl rfl nofun)

theorem onReturn_silentOrEnds (r : Ret) (s : State) : SilentOrEnds (some r) s (onReturn r s) := by
  apply SilentOrEnds.of_ret_cleared
  cases r with
  | ok => exact afterOk_silentOrEnds { s with ret := none }
  | busFault => exact .inr ⟨.busFault, rfl, answered_abort _ _⟩
  | timeout => exact .inr ⟨.timeout, rfl, answered_abort _ _⟩

theorem ctlIdle_silentOrEnds (s : State) : SilentOrEnds none s (ctlIdle s) := by
  obtain ⟨hc, h⟩ | ⟨-, h⟩ | ⟨-, -, h⟩ | ⟨o, -, -, h⟩ | ⟨-, -, h⟩ := ctlIdle_cases s <;>
    rw [h, SilentOrEnds]
  · rw [hc]; exact .inr ⟨.cmdIllegal, rfl, answered_respond _ _ _ s⟩
  · exact .inl (silent_pollSample s)
  · exact .inl (.of_event .dly rfl rfl rfl rfl)
  · exact .inl (.of_no_event rfl rfl id)
  · exact .inl (.of_no_event rfl rfl id)

/-- Every small step is silent or answers the command, as its state allows (R6, R10, R28). -/
theorem tick_silentOrEnds (s : State) : SilentOrEnds s.ret s (tick s) := by
  obtain ⟨r, hr, h⟩ | ⟨hr, -, h⟩ | ⟨hr, -, h⟩ | ⟨hr, -, h⟩ | ⟨hr, -, h⟩ | ⟨hr, -, h⟩ := tick_cases s <;>
    rw [h, hr]
  · exact onReturn_silentOrEnds r s
  · exact ctlIdle_silentOrEnds s
  · exact .inl (.of_event .csAssert rfl rfl rfl rfl)
  · exact .inl (silent_frmHdr s)
  · exact .inl (silent_frmData s)
  · exact .inl (.of_event .csDeassert rfl rfl rfl rfl)

/-- Settles O16: a silent step has at most one event, and a response comes alone. -/
theorem smallStepProducesAtMostOneEvent : Obligations.SmallStepProducesAtMostOneEvent := by
  intro s
  obtain h | ⟨k, -, h⟩ := tick_silentOrEnds s
  · obtain ⟨es, ht, hlen, -⟩ := h.events
    exact ⟨es, ht, hlen⟩
  · obtain ⟨info, ht⟩ := h.event
    exact ⟨_, ht, Nat.le_refl 1⟩

end Sys2Proof.Machine
end

section
/-! SUPPORT. Proofs/InFlight.lean: a command in progress: what holds while it runs, and how many small steps
it has left (R11, R170, R177). -/

namespace Sys2Proof.Machine

/-! ## A command in progress -/

/-- The state a controller's state is entered through from `C_READY` (R21). -/
def Ctl.entry : Ctl → Ctl
  | .initCfg => .initPa
  | .txFifo | .txStx | .txWait | .txStatus => .txSidle
  | c => c

/-- The instruction `i` is in progress: from its acceptance to the small step that answers it. -/
structure InFlight (i : Instr) (s : State) : Prop where
  /-- the controller is in one of the instruction's states (R21) -/
  stage : s.ctl.entry = entryOf i
  /-- a bus state has its operation (R116) -/
  operation : s.ctl.onBus = true → ∃ o, opArgs s = some o
  /-- the framer runs in a bus state, before its operation returns (R22) -/
  framer : s.frm ≠ .idle → s.ctl.onBus = true ∧ s.ret = none
  /-- a data byte is left in `F_DATA` (R110) -/
  dataLeft : s.frm = .data → s.cnt ≠ 0
  /-- a returned value fits the sub-step that returned it (R170) -/
  retLegal : ∀ r, s.ret = some r → retFits s.ctl r = true
  /-- only a polled wait with a bound times out (R153, R155) -/
  timedOut : s.ret = some .timeout →
    s.straps.pollLimit ≠ .unbounded ∧ (s.ctl = .txWait → s.straps.policy = .signalPoll)
  /-- while samples are taken the bound is not reached (R152) -/
  pollLeft : polling s = true → ∀ n, pollBound s.straps.pollLimit = some n → s.pollCnt < n

/-- Samples are taken by WAIT and by a TX that polls (R152, R155). -/
theorem polling_cases {s : State} (h : polling s = true) :
    s.ret = none ∧ (s.ctl = .wait ∨ (s.ctl = .txWait ∧ s.straps.policy = .signalPoll)) := by
  simpa [polling] using h

theorem pollBound_pos {limit : PollLimit} {n : Nat} (h : pollBound limit = some n) : 0 < n := by
  cases limit with
  | unbounded => simp [pollBound] at h
  | bounded m => simp [pollBound] at h; omega

theorem limit_of_pollBound {limit : PollLimit} {n : Nat} (h : pollBound limit = some n) :
    limit ≠ .unbounded := by
  rintro rfl; simp [pollBound] at h

theorem InFlight.not_ready {i : Instr} {s : State} (h : InFlight i s) : s.ctl ≠ .ready := by
  intro hc
  have := h.stage
  rw [hc] at this
  exact entryOf_ne_ready i this.symm

/-- A sub-step about to start: nothing in the framer, nothing returned, no sample taken. -/
theorem InFlight.of_start {i : Instr} {t : State} (hstage : t.ctl.entry = entryOf i)
    (hop : t.ctl.onBus = true → ∃ o, opArgs t = some o) (hfrm : t.frm = .idle) (hret : t.ret = none)
    (hpoll : polling t = true → t.pollCnt = 0) : InFlight i t where
  stage := hstage
  operation := hop
  framer h := absurd hfrm h
  dataLeft h := by simp [hfrm] at h
  retLegal r h := by simp [hret] at h
  timedOut h := by simp [hret] at h
  pollLeft hp n hn := hpoll hp ▸ pollBound_pos hn

/-- Acceptance puts an instruction in progress (R25, R26, R29). -/
theorem inFlight_accepted (i : Instr) (s : State) : InFlight i (accepted i s) := by
  obtain ⟨hfrm, hret, -⟩ := accepted_rest i s
  refine .of_start ?_ ?_ hfrm hret ?_
  · rw [accepted_ctl]; cases i <;> rfl
  · cases i with
    | wait | hdrReserved | cmdReserved010 | cmdReserved111 => exact nofun
    | _ => exact fun _ => ⟨_, rfl⟩
  · cases i with
    | wait => exact fun _ => rfl
    | _ => intro hp; simp [polling, accepted_ctl, entryOf] at hp

/-! ## The answers a command in progress may get (R170) -/

theorem mayAnswer_ok (straps : Straps) {i : Instr} (h : entryOf i ≠ .illegal) :
    mayAnswer straps i .ok = true := by
  cases i <;> simp_all [entryOf, mayAnswer]

theorem mayAnswer_busFault (straps : Straps) {i : Instr} (h : entryOf i ≠ .illegal)
    (hw : entryOf i ≠ .wait) : mayAnswer straps i .busFault = true := by
  cases i <;> simp_all [entryOf, mayAnswer]

theorem mayAnswer_timeout {straps : Straps} {i : Instr} (hl : straps.pollLimit ≠ .unbounded)
    (h : entryOf i = .wait ∨ (entryOf i = .txSidle ∧ straps.policy = .signalPoll)) :
    mayAnswer straps i .timeout = true := by
  cases i <;> simp_all [entryOf, mayAnswer]

theorem mayAnswer_txIncomplete (straps : Straps) {i : Instr} (h : entryOf i = .txSidle) :
    mayAnswer straps i .txIncomplete = true := by
  cases i <;> simp_all [entryOf, mayAnswer]

theorem mayAnswer_cmdIllegal (straps : Straps) {i : Instr} (h : entryOf i = .illegal) :
    mayAnswer straps i .cmdIllegal = true := by
  cases i <;> simp_all [entryOf, mayAnswer]

theorem waitBound_of_wait (straps : Straps) {i : Instr} (h : entryOf i = .wait) :
    waitBound straps i = pollBound straps.pollLimit := by
  cases i <;> simp_all [entryOf, waitBound]

theorem waitBound_of_tx (straps : Straps) {i : Instr} (h : entryOf i = .txSidle) :
    waitBound straps i =
      if straps.policy = .fixedDelay then some 1 else pollBound straps.pollLimit := by
  cases i <;> simp_all [entryOf, waitBound]

/-- A bus operation is of a command that is neither a wait nor a reserved code. -/
theorem Ctl.entry_of_onBus {c : Ctl} (h : c.onBus = true) : c.entry ≠ .illegal ∧ c.entry ≠ .wait := by
  cases c <;> simp_all [Ctl.onBus, Ctl.entry]

/-- Nothing returns in `C_ILLEGAL`. -/
theorem entry_of_retFits_ok {c : Ctl} (h : retFits c .ok = true) : c.entry ≠ .illegal := by
  cases c <;> simp_all [retFits, Ctl.onBus, Ctl.entry]

theorem endsWith_ok {c : Ctl} {k : RspKind} (h : endsWith (some .ok) c k = true) :
    k = .ok ∨ (c = .txStatus ∧ k = .txIncomplete) := by
  cases c <;> simp_all [endsWith]

/-- A command in progress ends with a result the table of R170 allows it. -/
theorem InFlight.mayAnswer {i : Instr} {s : State} (h : InFlight i s) {k : RspKind}
    (hk : endsWith s.ret s.ctl k = true) : mayAnswer s.straps i k = true := by
  cases hr : s.ret with
  | none =>
    obtain ⟨hc, rfl⟩ : s.ctl = .illegal ∧ k = .cmdIllegal := by simpa [endsWith, hr] using hk
    exact mayAnswer_cmdIllegal _ (by rw [← h.stage, hc]; rfl)
  | some r =>
    have hfit := h.retLegal r hr
    rw [hr] at hk
    cases r with
    | busFault =>
      obtain rfl : k = .busFault := by simpa [endsWith] using hk
      obtain ⟨hill, hwait⟩ := Ctl.entry_of_onBus hfit
      exact mayAnswer_busFault _ (h.stage ▸ hill) (h.stage ▸ hwait)
    | timeout =>
      obtain rfl : k = .timeout := by simpa [endsWith] using hk
      obtain ⟨hl, hpol⟩ := h.timedOut hr
      have hw : s.ctl = .wait ∨ s.ctl = .txWait := by simpa [retFits] using hfit
      refine mayAnswer_timeout hl (hw.imp (fun hc => ?_) fun hc => ⟨?_, hpol hc⟩) <;>
        rw [← h.stage, hc] <;> rfl
    | ok =>
      obtain rfl | ⟨hc, rfl⟩ := endsWith_ok hk
      · exact mayAnswer_ok _ (h.stage ▸ entry_of_retFits_ok hfit)
      · exact mayAnswer_txIncomplete _ (by rw [← h.stage, hc]; rfl)

/-! ## The small steps a command has left -/

/-- What a wait has left, where it takes at most `bound` samples: those samples and the return. -/
def waitStepsLeft (bound : Nat) (s : State) : Nat :=
  if s.ctl = .txWait ∧ s.straps.policy = .fixedDelay then 2 else bound - s.pollCnt + 1

/-- What a sub-step not yet started, or a wait, has left. -/
def idleStepsLeft (bound : Nat) (s : State) : Nat :=
  match opArgs s with
  | some o => o.len.toNat + 5
  | none => if s.ctl = .illegal then 1 else waitStepsLeft bound s

/-- What the sub-step in progress has left, its return to the controller included. -/
def subStepsLeft (bound : Nat) (s : State) : Nat :=
  match s.ret, s.frm with
  | some _, _ => 1
  | none, .idle => idleStepsLeft bound s
  | none, .sel => s.cnt.toNat + 4
  | none, .hdr => s.cnt.toNat + 3
  | none, .data => s.cnt.toNat + 2
  | none, .desel => 2

/-- What the sub-steps after that of the controller's state take (R130, R134). -/
def laterSteps (bound : Nat) (len : Byte) : Ctl → Nat
  | .initPa => 52
  | .txSidle => len.toNat + bound + 17
  | .txFifo => bound + 12
  | .txStx => bound + 7
  | .txWait => 6
  | .ready | .prim | .initCfg | .txStatus | .wait | .illegal => 0

/-- The most small steps a command in progress has left. -/
def stepsLeft (bound : Nat) (s : State) : Nat :=
  subStepsLeft bound s + laterSteps bound s.cLen s.ctl

theorem idleStepsLeft_pos (bound : Nat) (s : State) : 0 < idleStepsLeft bound s := by
  unfold idleStepsLeft waitStepsLeft
  split
  · omega
  · split_ifs <;> omega

theorem stepsLeft_pos (bound : Nat) (s : State) : 0 < stepsLeft bound s := by
  have := idleStepsLeft_pos bound s
  unfold stepsLeft subStepsLeft
  split <;> omega

/-- An accepted command has `smallStepsOf` to take. -/
theorem stepsLeft_accepted (bound : Nat) (i : Instr) (s : State) :
    stepsLeft bound (accepted i s) = smallStepsOf bound i := by
  cases i <;>
    simp +arith [stepsLeft, subStepsLeft, idleStepsLeft, waitStepsLeft, laterSteps, smallStepsOf,
      accepted, acceptStrobe, acceptWburst, acceptRburst, acceptReserved, acceptInit, acceptTx,
      acceptWait, startWait, opArgs, primArgs, strobeArgs, wburstArgs, rburstArgs, Config.paLen]

end Sys2Proof.Machine
end

section
/-! SUPPORT. Proofs/Progress.lean: every small step that does not answer a command in progress keeps it in
progress and leaves it fewer small steps (R110, R152). -/

namespace Sys2Proof.Machine

/-- The instruction is still in progress in `t`, and has fewer small steps left than in `s`. -/
structure Progress (i : Instr) (s t : State) : Prop where
  inFlight : InFlight i t
  fewer : ∀ bound, waitBound s.straps i = some bound → stepsLeft bound t < stepsLeft bound s

/-- A small step within the framer's operation. -/
theorem Progress.of_framer {i : Instr} {s t : State} (h : InFlight i s) (hbus : s.ctl.onBus = true)
    (hctl : t.ctl = s.ctl) (hop : opArgs t = opArgs s) (hlen : t.cLen = s.cLen) (hret : t.ret = none)
    (hdata : t.frm = .data → t.cnt ≠ 0) (hless : ∀ b, subStepsLeft b t < subStepsLeft b s) :
    Progress i s t where
  fewer b _ := by
    have := hless b
    simp only [stepsLeft, hctl, hlen]
    omega
  inFlight := {
    stage := hctl ▸ h.stage
    operation := by rw [hop]; exact fun _ => h.operation hbus
    framer := fun _ => ⟨hctl ▸ hbus, hret⟩
    dataLeft := hdata
    retLegal := fun r hr => by simp [hret] at hr
    timedOut := fun hr => by simp [hret] at hr
    pollLeft := fun hp => by
      obtain ⟨-, hw | ⟨hw, -⟩⟩ := polling_cases hp <;> simp [← hctl, hw, Ctl.onBus] at hbus }

theorem progress_loadOp {i : Instr} {s : State} {o : OpArgs} (h : InFlight i s) (hr : s.ret = none)
    (hf : s.frm = .idle) (hbus : s.ctl.onBus = true) (ho : opArgs s = some o) :
    Progress i s (loadOp o s) :=
  .of_framer h hbus rfl rfl rfl hr (by simp) fun b => by
    simp [subStepsLeft, idleStepsLeft, hr, hf, ho]

theorem progress_frmSel {i : Instr} {s : State} (h : InFlight i s) (hr : s.ret = none)
    (hf : s.frm = .sel) : Progress i s (frmSel s) := by
  obtain ⟨hbus, -⟩ := h.framer (by simp [hf])
  exact .of_framer h hbus rfl rfl rfl hr nofun fun b => by simp [subStepsLeft, frmSel, hr, hf]

theorem progress_frmHdr {i : Instr} {s : State} (h : InFlight i s) (hr : s.ret = none)
    (hf : s.frm = .hdr) : Progress i s (frmHdr s) := by
  obtain ⟨hbus, -⟩ := h.framer (by simp [hf])
  obtain ⟨r, b, d, ht⟩ | ⟨b, d, ht⟩ := frmHdr_eq s <;> rw [ht]
  · by_cases hz : s.cnt = 0
    · rw [if_pos hz]
      exact .of_framer h hbus rfl rfl rfl hr nofun fun b => by simp [subStepsLeft, hr, hf]
    · rw [if_neg hz]
      exact .of_framer h hbus rfl rfl rfl hr (fun _ => hz) fun b => by simp [subStepsLeft, hr, hf]
  · exact .of_framer h hbus rfl rfl rfl hr nofun fun b => by simp [subStepsLeft, hr, hf]

theorem progress_frmData {i : Instr} {s : State} (h : InFlight i s) (hr : s.ret = none)
    (hf : s.frm = .data) : Progress i s (frmData s) := by
  obtain ⟨hbus, -⟩ := h.framer (by simp [hf])
  have hne := h.dataLeft hf
  have hpos : 0 < s.cnt.toNat := by bv_omega
  have hcnt : (s.cnt - 1).toNat < s.cnt.toNat := by bv_omega
  obtain ⟨out, r, b, d, m, ht, -, -⟩ | ⟨out, b, d, ht⟩ := frmData_eq s <;> rw [ht]
  · by_cases hz : s.cnt - 1 = 0
    · rw [if_pos hz]
      exact .of_framer h hbus rfl rfl rfl hr nofun fun b => by simpa [subStepsLeft, hr, hf] using hpos
    · rw [if_neg hz]
      exact .of_framer h hbus rfl rfl rfl hr (fun _ => hz) fun b => by
        simpa [subStepsLeft, hr, hf] using hcnt
  · exact .of_framer h hbus rfl rfl rfl hr nofun fun b => by simpa [subStepsLeft, hr, hf] using hpos

theorem progress_frmDesel {i : Instr} {s : State} (h : InFlight i s) (hr : s.ret = none)
    (hf : s.frm = .desel) : Progress i s (frmDesel s) := by
  obtain ⟨hbus, -⟩ := h.framer (by simp [hf])
  refine ⟨⟨h.stage, h.operation, nofun, nofun, fun r hr' => ?_, fun hr' => ?_, nofun⟩, fun b _ => ?_⟩
  · cases hr'
    cases hfe : s.ferr <;> simp [opResult, retFits, frmDesel, hbus]
  · cases hfe : s.ferr <;> simp [opResult, frmDesel, hfe] at hr'
  · simp [stepsLeft, subStepsLeft, frmDesel, hr, hf]

/-- While samples are taken the command's bound is that of the poller. -/
theorem InFlight.waitBound_eq {i : Instr} {s : State} (h : InFlight i s) (hp : polling s = true) :
    waitBound s.straps i = pollBound s.straps.pollLimit := by
  obtain ⟨-, hc | ⟨hc, hpol⟩⟩ := polling_cases hp
  · exact waitBound_of_wait _ (by rw [← h.stage, hc]; rfl)
  · rw [waitBound_of_tx _ (by rw [← h.stage, hc]; rfl), hpol, if_neg nofun]

theorem subStepsLeft_polling {s : State} (hp : polling s = true) (hf : s.frm = .idle) (bound : Nat) :
    subStepsLeft bound s = bound - s.pollCnt + 1 := by
  obtain ⟨hr, hc | ⟨hc, hpol⟩⟩ := polling_cases hp <;>
    simp [subStepsLeft, idleStepsLeft, waitStepsLeft, opArgs, *]

/-- A small step of a wait that returns a value, `Timeout` only where a bound is reached. -/
theorem Progress.of_wait_returns {i : Instr} {s t : State} {r : Ret} (h : InFlight i s)
    (hf : s.frm = .idle) (hw : s.ctl = .wait ∨ s.ctl = .txWait) (hctl : t.ctl = s.ctl)
    (hstraps : t.straps = s.straps) (hfrm : t.frm = s.frm) (hlen : t.cLen = s.cLen)
    (hret : t.ret = some r) (hfit : r ≠ .busFault)
    (htime : r = .timeout → polling s = true ∧ s.straps.pollLimit ≠ .unbounded)
    (hleft : ∀ b, waitBound s.straps i = some b → 1 < subStepsLeft b s) : Progress i s t where
  fewer b hb := by
    have := hleft b hb
    simp only [stepsLeft, hctl, hlen]
    simp only [subStepsLeft, hret] at this ⊢
    omega
  inFlight := {
    stage := hctl ▸ h.stage
    operation := fun hbus => by rcases hw with hw | hw <;> simp [hctl, hw, Ctl.onBus] at hbus
    framer := fun hn => absurd (hfrm.trans hf) hn
    dataLeft := fun hd => by simp [hfrm, hf] at hd
    retLegal := fun q hq => by
      obtain rfl : r = q := by simpa [hret] using hq
      rcases hw with hw | hw <;> cases r <;> simp_all [retFits]
    timedOut := fun hq => by
      obtain rfl : r = .timeout := by simpa [hret] using hq
      obtain ⟨hp, hl⟩ := htime rfl
      obtain ⟨-, hc | ⟨hc, hpol⟩⟩ := polling_cases hp
      · exact ⟨hstraps ▸ hl, fun hc' => by simp [hctl, hc] at hc'⟩
      · exact ⟨hstraps ▸ hl, fun _ => hstraps ▸ hpol⟩
    pollLeft := fun hp => by simp [polling, hret] at hp }

/-- A small step of a wait that goes on, one more sample counted. -/
theorem Progress.of_mismatch {i : Instr} {s t : State} (h : InFlight i s) (hp : polling s = true)
    (hpt : polling t = true) (hf : s.frm = .idle) (hctl : t.ctl = s.ctl) (hstraps : t.straps = s.straps)
    (hfrm : t.frm = s.frm) (hlen : t.cLen = s.cLen) (hcnt : t.pollCnt = s.pollCnt + 1)
    (hmore : ∀ b, pollBound s.straps.pollLimit = some b → t.pollCnt < b) : Progress i s t where
  fewer b hb := by
    have := hmore b (h.waitBound_eq hp ▸ hb)
    simp only [stepsLeft, hctl, hlen, subStepsLeft_polling hp hf,
      subStepsLeft_polling hpt (hfrm.trans hf)]
    omega
  inFlight := {
    stage := hctl ▸ h.stage
    operation := fun hbus => by
      obtain ⟨-, hc | ⟨hc, -⟩⟩ := polling_cases hp <;> simp [hctl, hc, Ctl.onBus] at hbus
    framer := fun hn => absurd (hfrm.trans hf) hn
    dataLeft := fun hd => by simp [hfrm, hf] at hd
    retLegal := fun r hr => by simp [(polling_cases hpt).1] at hr
    timedOut := fun hr => by simp [(polling_cases hpt).1] at hr
    pollLeft := fun _ => hstraps ▸ hmore }

theorem progress_pollSample {i : Instr} {s : State} (h : InFlight i s) (hp : polling s = true)
    (hf : s.frm = .idle) : Progress i s (pollSample s) := by
  have hw : s.ctl = .wait ∨ s.ctl = .txWait := (polling_cases hp).2.imp_right And.left
  have hleft : ∀ b, waitBound s.straps i = some b → 1 < subStepsLeft b s := fun b hb => by
    have := h.pollLeft hp b (h.waitBound_eq hp ▸ hb)
    rw [subStepsLeft_polling hp hf]; omega
  obtain ⟨v, p, ff0, d, ⟨-, ht⟩ | ⟨-, hb, ht⟩ | ⟨n, -, hb, ht⟩⟩ := pollSample_eq s
  · rw [ht]
    exact .of_wait_returns h hf hw rfl rfl rfl rfl rfl nofun nofun hleft
  · rw [ht]
    refine ⟨⟨h.stage, h.operation, h.framer, h.dataLeft, h.retLegal, h.timedOut, h.pollLeft⟩,
      fun b hwb => ?_⟩
    simp [h.waitBound_eq hp, hb] at hwb
  · by_cases hn : s.pollCnt + 1 = n
    · rw [ht, if_pos hn]
      exact .of_wait_returns h hf hw rfl rfl rfl rfl rfl nofun
        (fun _ => ⟨hp, limit_of_pollBound hb⟩) hleft
    · have hlt := h.pollLeft hp n hb
      rw [ht, if_neg hn]
      refine .of_mismatch h hp ?_ hf rfl rfl rfl rfl rfl fun b hb' => ?_
      · simpa [polling] using (polling_cases hp).2
      · obtain rfl : n = b := by simpa [hb] using hb'
        simp only; omega

theorem progress_fixedDelay {i : Instr} {s : State} (h : InFlight i s) (hr : s.ret = none)
    (hf : s.frm = .idle) (hc : s.ctl = .txWait) (hpol : s.straps.policy = .fixedDelay) :
    Progress i s (fixedDelay s) :=
  .of_wait_returns h hf (.inr hc) rfl rfl rfl rfl rfl nofun nofun fun b _ => by
    simp [subStepsLeft, idleStepsLeft, waitStepsLeft, opArgs, hr, hf, hc, hpol]

/-- The controller's idle step, unless it answers a reserved code. -/
theorem progress_ctlIdle {i : Instr} {s : State} (h : InFlight i s) (hr : s.ret = none)
    (hf : s.frm = .idle) (hbusy : (ctlIdle s).ctl ≠ .ready) : Progress i s (ctlIdle s) := by
  obtain ⟨-, ht⟩ | ⟨hc, ht⟩ | ⟨hc, hpol, ht⟩ | ⟨o, hbus, ho, ht⟩ | ⟨hc, ho, -⟩ := ctlIdle_cases s
  · exact absurd (ht ▸ rfl) hbusy
  · exact ht ▸ progress_pollSample h (by simpa [polling, hr] using hc) hf
  · exact ht ▸ progress_fixedDelay h hr hf hc hpol
  · exact ht ▸ progress_loadOp h hr hf hbus ho
  · obtain ⟨o, ho'⟩ := h.operation (hc.resolve_right h.not_ready)
    simp [ho] at ho'

/-- The controller's next sub-step starts. -/
theorem Progress.of_next {i : Instr} {s t : State} {r : Ret} (h : InFlight i s) (hr : s.ret = some r)
    (hstage : t.ctl.entry = s.ctl.entry) (hop : t.ctl.onBus = true → ∃ o, opArgs t = some o)
    (hfrm : t.frm = s.frm) (hret : t.ret = none) (hlen : t.cLen = s.cLen)
    (hpoll : polling t = true → t.pollCnt = 0)
    (hsteps : ∀ b, waitBound s.straps i = some b →
      idleStepsLeft b t + laterSteps b s.cLen t.ctl ≤ laterSteps b s.cLen s.ctl) : Progress i s t := by
  have hidle : s.frm = .idle := by
    by_contra hn
    simp [(h.framer hn).2] at hr
  refine ⟨.of_start (hstage.trans h.stage) hop (hfrm.trans hidle) hret hpoll, fun b hb => ?_⟩
  have := hsteps b hb
  simp only [stepsLeft, subStepsLeft, hr, hret, hfrm, hidle, hlen]
  omega

theorem progress_enterTxWait {i : Instr} {s : State} {r : Ret} (h : InFlight i s)
    (hr : s.ret = some r) (hc : s.ctl = .txStx) :
    Progress i s (enterTxWait { s with ret := none }) := by
  have hbound := waitBound_of_tx s.straps (i := i) (by rw [← h.stage, hc]; rfl)
  unfold enterTxWait
  cases hpol : s.straps.policy with
  | signalPoll =>
    refine .of_next h hr (by rw [hc]; rfl) nofun rfl rfl rfl (fun _ => rfl) fun b hb => ?_
    simp [idleStepsLeft, waitStepsLeft, opArgs, startWait, laterSteps, hc, hpol]
  | fixedDelay =>
    refine .of_next h hr (by rw [hc]; rfl) nofun rfl rfl rfl (by simp [polling, hpol]) fun b hb => ?_
    obtain rfl : 1 = b := by simpa [hbound, hpol] using hb
    simp [idleStepsLeft, waitStepsLeft, opArgs, laterSteps, hc, hpol]

theorem onReturn_ok (s : State) : onReturn .ok s = afterOk { s with ret := none } := rfl

theorem afterOk_of_prim {s : State} (h : s.ctl = .prim) : afterOk s = primDone s := by
  simp [afterOk, h]

theorem afterOk_of_txStx {s : State} (h : s.ctl = .txStx) : afterOk s = enterTxWait s := by
  simp [afterOk, h]

theorem afterOk_of_txStatus {s : State} (h : s.ctl = .txStatus) : afterOk s = txStatusDone s := by
  simp [afterOk, h]

/-- The controller takes a returned value without answering. -/
theorem progress_onReturn {i : Instr} {s : State} {r : Ret} (h : InFlight i s) (hr : s.ret = some r)
    (hbusy : (onReturn r s).ctl ≠ .ready) : Progress i s (onReturn r s) := by
  cases r with
  | busFault | timeout => exact absurd rfl hbusy
  | ok =>
    have hfit := h.retLegal .ok hr
    cases hc : s.ctl with
    | ready | illegal => simp [hc, retFits, Ctl.onBus] at hfit
    | prim =>
      rw [onReturn_ok, afterOk_of_prim (by exact hc)] at hbusy
      exact absurd (answered_primDone _).ctl hbusy
    | txStatus =>
      obtain ⟨k, -, ha⟩ := answered_txStatusDone { s with ret := none }
      rw [onReturn_ok, afterOk_of_txStatus (by exact hc)] at hbusy
      exact absurd ha.ctl hbusy
    | initCfg | wait => simp [onReturn_ok, afterOk, hc] at hbusy
    | txStx =>
      rw [onReturn_ok, afterOk_of_txStx (by exact hc)]
      exact progress_enterTxWait h hr hc
    | initPa | txSidle | txFifo | txWait =>
      simp only [onReturn_ok, afterOk, hc]
      refine .of_next h hr (by rw [hc]; rfl) (fun _ => ⟨_, rfl⟩) rfl rfl rfl (by simp [polling])
        fun b _ => ?_
      simp +arith [idleStepsLeft, laterSteps, hc, opArgs, strobeArgs, wburstArgs, rburstArgs,
        Config.cfgLen]

/-- A command in progress makes progress at every small step that does not answer it. -/
theorem progress_tick {i : Instr} {s : State} (h : InFlight i s) (hbusy : (tick s).ctl ≠ .ready) :
    Progress i s (tick s) := by
  obtain ⟨r, hr, ht⟩ | ⟨hr, hf, ht⟩ | ⟨hr, hf, ht⟩ | ⟨hr, hf, ht⟩ | ⟨hr, hf, ht⟩ | ⟨hr, hf, ht⟩ :=
    tick_cases s <;> rw [ht] at hbusy ⊢
  · exact progress_onReturn h hr hbusy
  · exact progress_ctlIdle h hr hf hbusy
  · exact progress_frmSel h hr hf
  · exact progress_frmHdr h hr hf
  · exact progress_frmData h hr hf
  · exact progress_frmDesel h hr hf

end Sys2Proof.Machine
end

section
/-! SUPPORT. Proofs/Completion.lean: a command in progress is answered once, by the table of R170, and a bounded
one within its small steps (R11, R177). -/

namespace Sys2Proof.Machine

/-! ## Runs of a command -/

/-- Between `s` and `t` no response was posted. -/
structure Unanswered (s t : State) : Prop where
  events : ∃ es : List Event, t.trace = s.trace ++ es ∧ ∀ e ∈ es, e.isRsp = false
  rspValid : t.rspValid = s.rspValid

theorem Unanswered.refl (s : State) : Unanswered s s := ⟨⟨[], by simp⟩, rfl⟩

theorem Unanswered.then_silent {s t u : State} (h : Unanswered s t) (k : Silent t u) :
    Unanswered s u := by
  obtain ⟨es, ht, hes⟩ := h.events
  obtain ⟨fs, hu, -, hfs⟩ := k.events
  refine ⟨⟨es ++ fs, by rw [hu, ht, List.append_assoc], fun e he => ?_⟩, k.rspValid.trans h.rspValid⟩
  exact (List.mem_append.1 he).elim (hes e) (hfs e)

/-- The instruction `i`, in progress in `s`, has been answered in `t`, once, as the table of R170 allows, and
the block is at rest. -/
def Completed (i : Instr) (s t : State) : Prop :=
  ∃ k info es, t.ctl = .ready ∧ t.ret = none ∧ t.frm = .idle ∧ t.rspValid = true ∧
    t.rspCode = RspKind.code k ∧ mayAnswer s.straps i k = true ∧
    t.trace = s.trace ++ es ++ [.rsp k info] ∧ ∀ e ∈ es, e.isRsp = false

/-- The framer is idle at the small step that answers (R22). -/
theorem InFlight.idle_of_endsWith {i : Instr} {s : State} (h : InFlight i s) {k : RspKind}
    (hk : endsWith s.ret s.ctl k = true) : s.frm = .idle := by
  by_contra hn
  obtain ⟨hbus, hr⟩ := h.framer hn
  obtain ⟨hc, -⟩ : s.ctl = .illegal ∧ k = .cmdIllegal := by simpa [endsWith, hr] using hk
  simp [hc, Ctl.onBus] at hbus

/-- The small step that answers completes the command. -/
theorem InFlight.completed {i : Instr} {s t u : State} (h : InFlight i t) (hs : Unanswered s t)
    (hstraps : t.straps = s.straps) {k : RspKind} (hk : endsWith t.ret t.ctl k = true)
    (ha : Answered k t u) : Completed i s u := by
  obtain ⟨es, ht, hes⟩ := hs.events
  obtain ⟨info, hu⟩ := ha.event
  exact ⟨k, info, es, ha.ctl, ha.ret, ha.frm.trans (h.idle_of_endsWith hk), ha.rspValid, ha.rspCode,
    hstraps ▸ h.mayAnswer hk, by rw [hu, ht], hes⟩

theorem Completed.tick_eq {i : Instr} {s t : State} (h : Completed i s t) : tick t = t := by
  obtain ⟨k, info, es, hc, hr, hf, -⟩ := h
  exact tick_of_ready hc hf hr

theorem advance_succ' (n : Nat) (s : State) : advance (n + 1) s = tick (advance n s) := by
  rw [advance_add]; rfl

/-- After any number of small steps a command in progress is still in progress, with no response posted, or
completed. -/
theorem InFlight.inFlight_or_completed {i : Instr} {s : State} (h : InFlight i s) (n : Nat) :
    (InFlight i (advance n s) ∧ Unanswered s (advance n s)) ∨ Completed i s (advance n s) := by
  induction n with
  | zero => exact .inl ⟨h, .refl s⟩
  | succ n ih =>
    rw [advance_succ']
    obtain ⟨hn, hun⟩ | hdone := ih
    · obtain hsilent | ⟨k, hk, ha⟩ := tick_silentOrEnds (advance n s)
      · have hbusy := mt hsilent.ready hn.not_ready
        exact .inl ⟨(progress_tick hn hbusy).inFlight, hun.then_silent hsilent⟩
      · exact .inr (hn.completed hun (sameCommand_advance n s).straps hk ha)
    · exact .inr (hdone.tick_eq.symm ▸ hdone)

/-- While a bounded command is in progress, every small step leaves it fewer. -/
theorem InFlight.stepsLeft_advance {i : Instr} {s : State} {bound : Nat} (h : InFlight i s)
    (hb : waitBound s.straps i = some bound) (n : Nat) (hn : InFlight i (advance n s)) :
    n + stepsLeft bound (advance n s) ≤ stepsLeft bound s := by
  induction n with
  | zero => simp
  | succ n ih =>
    obtain ⟨hprev, -⟩ | hdone := h.inFlight_or_completed n
    · rw [advance_succ'] at hn ⊢
      have hlt := (progress_tick hprev hn.not_ready).fewer bound
        ((sameCommand_advance n s).straps ▸ hb)
      have := ih hprev
      omega
    · rw [advance_succ', hdone.tick_eq] at hn
      obtain ⟨k, info, es, hc, -⟩ := hdone
      exact absurd hc hn.not_ready

/-- A bounded command is completed by the small steps it has left. -/
theorem InFlight.completes {i : Instr} {s : State} {bound n : Nat} (h : InFlight i s)
    (hb : waitBound s.straps i = some bound) (hn : stepsLeft bound s ≤ n) :
    Completed i s (advance n s) := by
  refine (h.inFlight_or_completed n).resolve_left fun ⟨hrun, _⟩ => ?_
  have := h.stepsLeft_advance hb n hrun
  have := stepsLeft_pos bound (advance n s)
  omega

/-! ## Chip-select -/

theorem afterOk_frm_cs (s : State) : (afterOk s).frm = s.frm ∧ (afterOk s).cs = s.cs := by
  cases hc : s.ctl with
  | prim => rw [afterOk_of_prim hc]; unfold primDone; split <;> exact ⟨rfl, rfl⟩
  | txStx => rw [afterOk_of_txStx hc]; unfold enterTxWait; split <;> exact ⟨rfl, rfl⟩
  | txStatus =>
    obtain ⟨status, d, h, -⟩ := txStatusDone_eq s
    rw [afterOk_of_txStatus hc, h]
    exact ⟨rfl, rfl⟩
  | _ => simp [afterOk, hc]

theorem pollSample_frm_cs (s : State) : (pollSample s).frm = s.frm ∧ (pollSample s).cs = s.cs := by
  obtain ⟨v, p, ff0, d, ⟨-, h⟩ | ⟨-, -, h⟩ | ⟨n, -, -, h⟩⟩ := pollSample_eq s <;> rw [h] <;>
    exact ⟨rfl, rfl⟩

/-- `cs` follows the framer's phase (R23). -/
def CsFollows (s : State) : Prop := s.cs = s.frm.selects

theorem CsFollows.of_same {s t : State} (h : CsFollows s) (k : t.frm = s.frm ∧ t.cs = s.cs) :
    CsFollows t := by
  rw [CsFollows, k.1, k.2, h]

theorem csFollows_onReturn (r : Ret) {s : State} (h : CsFollows s) : CsFollows (onReturn r s) := by
  cases r with
  | ok => exact h.of_same (afterOk_frm_cs { s with ret := none })
  | busFault | timeout => exact h

theorem csFollows_ctlIdle {s : State} (h : CsFollows s) (hf : s.frm = .idle) :
    CsFollows (ctlIdle s) := by
  obtain ⟨-, ht⟩ | ⟨-, ht⟩ | ⟨-, -, ht⟩ | ⟨o, -, -, ht⟩ | ⟨-, -, ht⟩ := ctlIdle_cases s <;> rw [ht]
  · exact h
  · exact h.of_same (pollSample_frm_cs s)
  · exact h
  · exact h.trans (by rw [hf]; rfl)
  · exact h

/-- Every small step keeps chip-select with the framer's phase. -/
theorem csFollows_tick {s : State} (h : CsFollows s) : CsFollows (tick s) := by
  obtain ⟨r, -, ht⟩ | ⟨-, hf, ht⟩ | ⟨-, -, ht⟩ | ⟨-, hf, ht⟩ | ⟨-, hf, ht⟩ | ⟨-, -, ht⟩ :=
    tick_cases s <;> rw [ht]
  · exact csFollows_onReturn r h
  · exact csFollows_ctlIdle h hf
  · rfl
  · have hcs : s.cs = true := h.trans (by rw [hf]; rfl)
    obtain ⟨r, b, d, ht⟩ | ⟨b, d, ht⟩ := frmHdr_eq s <;> rw [ht]
    · by_cases hz : s.cnt = 0
      · rw [if_pos hz]; exact hcs
      · rw [if_neg hz]; exact hcs
    · exact hcs
  · have hcs : s.cs = true := h.trans (by rw [hf]; rfl)
    obtain ⟨out, r, b, d, m, ht, -, -⟩ | ⟨out, b, d, ht⟩ := frmData_eq s <;> rw [ht]
    · by_cases hz : s.cnt - 1 = 0
      · rw [if_pos hz]; exact hcs
      · rw [if_neg hz]; exact hcs
    · exact hcs
  · rfl

/-- Settles O37: acceptance puts the command in progress with `smallStepsOf` small steps to take, and every
small step that does not answer it leaves fewer. -/
theorem everyBoundedCommandIsAnswered : Obligations.EveryBoundedCommandIsAnswered := by
  intro i s n hinv hc hb hpace
  obtain ⟨hfrm, -, -, htrace, hcs, -, -, hstraps, -⟩ := accepted_rest i s
  have hrest : CsFollows (accepted i s) := by
    rw [CsFollows, hcs, hinv.csPhase, hfrm, (hinv.idle hc).1]
  have hfollows : CsFollows (advance s.pace (accepted i s)) :=
    advance_keeps (fun _ h => csFollows_tick h) _ hrest
  obtain ⟨k, info, es, hready, -, hidle, hvalid, hcode, hmay, hes, hno⟩ :=
    (inFlight_accepted i s).completes (n := s.pace) (hstraps.symm ▸ hb) (by rwa [stepsLeft_accepted])
  refine ⟨_, k, info, es, exec_ready hc i, hready, hidle, ?_, hvalid, hcode, hstraps ▸ hmay,
    by rw [hes, htrace], hno⟩
  rw [hfollows, hidle]; rfl

end Sys2Proof.Machine
end

section
/-! SUPPORT. Proofs/Moves.lean: what the controller does with an operation that has returned `Ok`, and what
acceptance writes, each said once (R21, R29). -/

namespace Sys2Proof.Machine

theorem Ctl.ready_mem_leftTo {c : Ctl} (h : c ≠ .ready) : Ctl.ready ∈ c.leftTo := by
  cases c <;> simp_all [Ctl.leftTo]

/-- `C_PRIM` is entered by acceptance alone (R21). -/
theorem Ctl.prim_not_mem_leftTo (c : Ctl) : Ctl.prim ∉ c.leftTo := by
  cases c <;> simp [Ctl.leftTo]

theorem Ctl.onBus_ne_ready {c : Ctl} (h : c.onBus = true) : c ≠ .ready := by
  rintro rfl; simp [Ctl.onBus] at h

/-- A sub-step has returned `Ok`: no sub-step was running, the next one of the sequence is entered, the command
is answered, or TX judges its status byte (R21, R116, R130, R134, R154). -/
theorem afterOk_cases (s : State) :
    ((s.ctl = .ready ∨ s.ctl = .illegal) ∧ afterOk s = s) ∨
    (∃ c tgt n, c ≠ .ready ∧ c ∈ s.ctl.leftTo ∧
      afterOk s = { s with ctl := c, tgtLevel := tgt, pollCnt := n } ∧ n ≤ s.pollCnt ∧
      (polling (afterOk s) = true → n = 0)) ∨
    (∃ n info, (s.ctl = .prim ∨ s.ctl = .initCfg ∨ s.ctl = .wait) ∧
      afterOk s = respond .ok n info s ∧
      (n = 0 ∨ (s.ctl = .prim ∧ s.cOp = 0b011#3 ∧ n = s.cLen))) ∨
    (s.ctl = .txStatus ∧ afterOk s = txStatusDone s) := by
  cases hc : s.ctl with
  | ready | illegal => exact .inl ⟨by simp, by simp [afterOk, hc]⟩
  | txStatus => exact .inr (.inr (.inr ⟨rfl, afterOk_of_txStatus hc⟩))
  | prim =>
    refine .inr (.inr (.inl ?_))
    rw [afterOk_of_prim hc, primDone]
    split
    · exact ⟨_, _, .inl rfl, rfl, .inr ⟨rfl, ‹_›, rfl⟩⟩
    · exact ⟨_, _, .inl rfl, rfl, .inl rfl⟩
  | initCfg | wait => exact .inr (.inr (.inl ⟨0, .none, by simp, by simp [afterOk, hc], .inl rfl⟩))
  | txStx =>
    refine .inr (.inl ?_)
    rw [afterOk_of_txStx hc, enterTxWait]
    cases hp : s.straps.policy with
    | signalPoll =>
      exact ⟨.txWait, s.straps.idleLevel, 0, nofun, by simp [Ctl.leftTo], rfl, Nat.zero_le _,
        fun _ => rfl⟩
    | fixedDelay =>
      exact ⟨.txWait, s.tgtLevel, s.pollCnt, nofun, by simp [Ctl.leftTo], rfl, Nat.le_refl _,
        fun h => by simp [polling, hp] at h⟩
  | initPa | txSidle | txFifo | txWait =>
    exact .inr (.inl ⟨(afterOk s).ctl, s.tgtLevel, s.pollCnt, by simp [afterOk, hc],
      by simp [afterOk, hc, Ctl.leftTo], by simp [afterOk, hc], Nat.le_refl _,
      fun h => by simp [afterOk, hc, polling] at h⟩)

/-- Acceptance in one form for all instructions: the latches and the poller's registers as the command has
them, the response withdrawn, the controller in the command's first state (R25, R26, R28, R29). -/
theorem accepted_eq (i : Instr) (s : State) :
    ∃ op addr len level tgt n, accepted i s =
      { s with
        cOp := op, rspValid := false, frm := .idle, ret := none, ctl := entryOf i, cAddr := addr
        cLen := len, cLevel := level, tgtLevel := tgt, pollCnt := n } ∧
      (entryOf i = .prim → op = 0b000#3 ∨ op = 0b001#3 ∨ op = 0b011#3) ∧
      n ≤ s.pollCnt ∧ (entryOf i = .wait → n = 0) ∧ entryOf i ≠ .txWait := by
  cases i with
  | wait level =>
    exact ⟨_, s.cAddr, s.cLen, level, level, 0, rfl, nofun, Nat.zero_le _, fun _ => rfl, nofun⟩
  | _ =>
    exact ⟨_, _, _, s.cLevel, s.tgtLevel, s.pollCnt, rfl, by simp [entryOf], Nat.le_refl _, nofun,
      nofun⟩

end Sys2Proof.Machine
end

section
/-! SUPPORT. Proofs/Invariant.lean: the invariant of the block holds at reset and every step keeps it. -/

namespace Sys2Proof.Machine

theorem Window.run_snoc {v w u : Window} {es : List Event} {e : Event}
    (h : Window.run v es = some w) (hn : Window.next w e = some u) :
    Window.run v (es ++ [e]) = some u := by
  induction es generalizing v with
  | nil =>
    obtain rfl : v = w := by simpa [Window.run] using h
    simp [Window.run, hn]
  | cons d es ih =>
    obtain ⟨v', hv, hr⟩ := Option.bind_eq_some_iff.1 h
    simp [Window.run, hv, ih hr]

/-! ## Where the events stand -/

theorem windowOf_idle {s : State} (h : s.frm = .idle) : windowOf s = .outside := by
  simp [windowOf, h]

theorem State.Inv.outside {s : State} (h : s.Inv) (hf : s.frm = .idle) :
    Window.run .outside s.trace = some .outside :=
  h.windows.trans (congrArg some (windowOf_idle hf))

/-- A returned value finds the framer idle (R22). -/
theorem State.Inv.idle_of_ret {s : State} (h : s.Inv) {r : Ret} (hr : s.ret = some r) :
    s.frm = .idle := by
  by_contra hn
  simp [(h.framer hn).2.1] at hr

/-- In `C_READY` nothing has been returned (R29). -/
theorem State.Inv.busy_of_ret {s : State} (h : s.Inv) {r : Ret} (hr : s.ret = some r) :
    s.ctl ≠ .ready := fun hc => by simp [(h.idle hc).2] at hr

/-- After a good read all its bytes are in RBUF (R113). -/
theorem State.Inv.received {s : State} (h : s.Inv) (hr : s.ret = some .ok) (hbus : s.ctl.onBus = true)
    {o : OpArgs} (ho : opArgs s = some o) (hk : o.kind = .rd) :
    ∀ i < o.len.toNat, (Memory.read s.rbuf i).isSome := by
  obtain ⟨o', ho', hop, hz⟩ := h.opDone hr hbus
  obtain rfl : o' = o := by simpa [ho] using ho'.symm
  have hsum := hop.sum
  intro i hi
  exact hop.stored (hop.dir.trans hk) i (by simp [hz] at hsum; omega)

/-- Deasserting chip-select closes the window, also one with no exchange yet (R201). -/
theorem State.Inv.window_closes {s : State} (h : s.Inv) (hcs : s.cs = true) :
    Window.next (windowOf s) .csDeassert = some .outside := by
  have hsel := h.csPhase.symm.trans hcs
  cases hf : s.frm with
  | idle | sel => simp [hf, Frm.selects] at hsel
  | hdr | data => simp only [windowOf, hf]; rfl
  | desel => cases hfe : s.ferr <;> simp only [windowOf, hf, hfe] <;> rfl

theorem State.Inv.window_closed {s : State} (h : s.Inv) (hcs : s.cs = false) :
    windowOf s = .outside := by
  have hsel := h.csPhase.symm.trans hcs
  cases hf : s.frm with
  | idle | sel => simp [windowOf, hf]
  | hdr | data | desel => simp [hf, Frm.selects] at hsel

/-! ## Reset -/

/-- Settles O47: at reset nothing is in flight, no event has been produced and the buffers are empty. -/
theorem resetStateMeetsTheInvariant : Obligations.ResetStateMeetsTheInvariant where
  dbufWf := rfl
  rbufWf := rfl
  csPhase := rfl
  windows := rfl
  idle _ := ⟨rfl, rfl⟩
  framer h := absurd rfl h
  ferrClear := nofun
  dataLeft := nofun
  allDone := nofun
  retLegal := nofun
  opDone := nofun
  prim := nofun
  pollZero _ := rfl
  pollMost _ _ := Nat.zero_le _
  pollLeft := nofun
  codes := Nat.zero_le _
  response _ := rfl
  validBytes := nofun

/-- The reset input closes an open window (R201), so that the events stand outside one. -/
theorem inv_doReset {s : State} (h : s.Inv) : (doReset s).Inv :=
  { resetStateMeetsTheInvariant with
    framer := fun hn => absurd rfl hn
    opDone := nofun
    pollZero := fun _ => rfl
    pollMost := fun _ _ => Nat.zero_le _
    pollLeft := nofun
    windows := by
      change Window.run .outside (if s.cs then s.trace ++ [.csDeassert] else s.trace) = some .outside
      cases hcs : s.cs with
      | true => exact Window.run_snoc h.windows (h.window_closes hcs)
      | false => exact h.windows.trans (congrArg some (h.window_closed hcs)) }

/-! ## The framer's small steps (R110) -/

theorem inv_loadOp {s : State} {o : OpArgs} (h : s.Inv) (hr : s.ret = none) (hf : s.frm = .idle)
    (hbus : s.ctl.onBus = true) (ho : opArgs s = some o) : (loadOp o s).Inv :=
  { h with
    csPhase := by rw [loadOp_cs, h.csPhase, hf]; rfl
    windows := h.outside hf
    idle := fun hc => absurd hc (Ctl.onBus_ne_ready hbus)
    framer := fun _ => ⟨hbus, hr, o, ho, rfl, by simp, rfl, fun _ i hi => by simp at hi⟩
    ferrClear := fun _ => rfl
    dataLeft := nofun
    allDone := nofun
    opDone := fun hok => by simp [hr] at hok }

theorem inv_frmSel {s : State} (h : s.Inv) (hf : s.frm = .sel) : (frmSel s).Inv := by
  obtain ⟨hbus, hr, o, ho, hop⟩ := h.framer (by simp [hf])
  exact
    { h with
      csPhase := rfl
      windows := Window.run_snoc h.windows (by simp only [windowOf, hf]; rfl)
      idle := fun hc => absurd hc (Ctl.onBus_ne_ready hbus)
      framer := fun _ => ⟨hbus, hr, o, ho, hop.hdr, hop.sum, hop.dir, hop.stored⟩
      ferrClear := fun _ => h.ferrClear (.inl hf)
      dataLeft := nofun
      allDone := nofun
      opDone := fun hok => by simp [frmSel, hr] at hok }

/-- At an exchange chip-select is asserted, and the window takes the exchange, good or faulted (R57, R114). -/
theorem State.Inv.exchange_allowed {s : State} (h : s.Inv) (hf : s.frm = .hdr ∨ s.frm = .data) :
    s.frm ≠ .idle ∧ s.cs = true ∧
      (∀ out r, Window.next (windowOf s) (.x out r) = some .inside) ∧
      ∀ out, Window.next (windowOf s) (.xf out) = some .faulted := by
  rw [h.csPhase]
  rcases hf with hf | hf <;> simp only [windowOf, hf] <;> exact ⟨nofun, rfl, fun _ _ => rfl, fun _ => rfl⟩

/-- A faulted exchange, of the header or of a data byte, ends the operation (R115). -/
theorem inv_of_faulted_exchange {s : State} {out : Byte} {b : List BusAnswer} {d : Nat} (h : s.Inv)
    (hf : s.frm = .hdr ∨ s.frm = .data) :
    State.Inv { s with
      busIn := b, draws := d, trace := s.trace ++ [.xf out], ferr := true, frm := .desel } := by
  obtain ⟨hrun, hcs, -, hxf⟩ := h.exchange_allowed hf
  obtain ⟨hbus, hr, o, ho, hop⟩ := h.framer hrun
  exact
    { h with
      csPhase := hcs
      windows := Window.run_snoc h.windows (hxf out)
      idle := fun hc => absurd hc (Ctl.onBus_ne_ready hbus)
      framer := fun _ => ⟨hbus, hr, o, ho, hop.hdr, hop.sum, hop.dir, hop.stored⟩
      ferrClear := nofun
      dataLeft := nofun
      allDone := nofun
      opDone := fun hok => by simp [hr] at hok }

theorem windowOf_inside {s : State} (hf : s.frm = .data ∨ s.frm = .desel) (h : s.ferr = false) :
    windowOf s = .inside := by
  rcases hf with hf | hf <;> simp [windowOf, hf, h]

/-- The phase after a good exchange with `n` data bytes left (R110). -/
theorem phase_after_ok (n : Byte) :
    (if n = 0 then Frm.desel else Frm.data) = .data ∨
      (if n = 0 then Frm.desel else Frm.data) = .desel := by
  split <;> simp

/-- A good exchange, of the header or of a data byte, goes on to the next data byte, or ends the data phase
when none is left (R110). -/
theorem inv_of_good_exchange {s : State} {out r i n : Byte} {b : List BusAnswer} {d : Nat} {m : Memory}
    (h : s.Inv) (hf : s.frm = .hdr ∨ s.frm = .data) (hm : Memory.wf m = true)
    (hsum : i.toNat + n.toNat = s.idx.toNat + s.cnt.toNat)
    (hstored : s.dir = .rd → ∀ j < i.toNat, (Memory.read m j).isSome) :
    State.Inv { s with
      busIn := b, draws := d, trace := s.trace ++ [.x out r], rbuf := m, idx := i, cnt := n
      frm := if n = 0 then .desel else .data } := by
  obtain ⟨hrun, hcs, hx, -⟩ := h.exchange_allowed hf
  obtain ⟨hbus, hr, o, ho, hop⟩ := h.framer hrun
  have hferr := h.ferrClear (.inr hf)
  exact
    { h with
      rbufWf := hm
      csPhase := hcs.trans (by rcases phase_after_ok n with hp | hp <;> rw [hp] <;> rfl)
      windows := Window.run_snoc h.windows
        ((hx out r).trans (congrArg some (windowOf_inside (phase_after_ok n) (by exact hferr)).symm))
      idle := fun hc => absurd hc (Ctl.onBus_ne_ready hbus)
      framer := fun _ => ⟨hbus, hr, o, ho, hop.hdr, hsum.trans hop.sum, hop.dir, hstored⟩
      ferrClear := fun _ => hferr
      dataLeft := fun hd => by simpa using hd
      allDone := fun hd _ => by simpa using hd
      opDone := fun hok => by simp [hr] at hok
      validBytes := fun hv => absurd (h.response hv) (Ctl.onBus_ne_ready hbus) }

theorem inv_frmHdr {s : State} (h : s.Inv) (hf : s.frm = .hdr) : (frmHdr s).Inv := by
  obtain ⟨-, -, o, -, hop⟩ := h.framer (by simp [hf])
  obtain ⟨r, b, d, ht⟩ | ⟨b, d, ht⟩ := frmHdr_eq s <;> rw [ht]
  · exact inv_of_good_exchange h (.inl hf) h.rbufWf rfl hop.stored
  · exact inv_of_faulted_exchange h (.inl hf)

theorem inv_frmData {s : State} (h : s.Inv) (hf : s.frm = .data) : (frmData s).Inv := by
  obtain ⟨-, -, o, -, hop⟩ := h.framer (by simp [hf])
  have hleft := h.dataLeft hf
  have hsum := hop.sum
  have hidx : s.idx.toNat < 255 := by bv_omega
  obtain ⟨out, r, b, d, m, ht, hrd, hnot⟩ | ⟨out, b, d, ht⟩ := frmData_eq s <;> rw [ht]
  · have hsum' : (s.idx + 1).toNat + (s.cnt - 1).toNat = s.idx.toNat + s.cnt.toNat := by bv_omega
    refine inv_of_good_exchange h (.inr hf) ?_ hsum' fun hd j hj => ?_
    · by_cases hd : s.dir = .rd
      · rw [hrd hd]; exact Memory.write_wf _ _ _ hidx h.rbufWf
      · rw [hnot hd]; exact h.rbufWf
    · rw [hrd hd, Memory.read_write]
      split
      · rfl
      · exact hop.stored hd j (by bv_omega)
  · exact inv_of_faulted_exchange h (.inr hf)

theorem inv_frmDesel {s : State} (h : s.Inv) (hf : s.frm = .desel) : (frmDesel s).Inv := by
  obtain ⟨hbus, -, o, ho, hop⟩ := h.framer (by simp [hf])
  have hcs : s.cs = true := h.csPhase.trans (by rw [hf]; rfl)
  exact
    { h with
      csPhase := rfl
      windows := Window.run_snoc h.windows (h.window_closes hcs)
      idle := fun hc => absurd hc (Ctl.onBus_ne_ready hbus)
      framer := fun hn => absurd rfl hn
      ferrClear := nofun
      dataLeft := nofun
      allDone := nofun
      retLegal := fun r hr => by
        obtain rfl : opResult s.ferr = r := by simpa [frmDesel] using hr
        cases s.ferr <;> simp [opResult, retFits, frmDesel, hbus]
      opDone := fun hok _ => by
        have hferr : s.ferr = false := by
          cases hfe : s.ferr <;> simp [frmDesel, opResult, hfe] at hok ⊢
        exact ⟨o, ho, ⟨hop.hdr, hop.sum, hop.dir, hop.stored⟩, h.allDone hf hferr⟩
      pollLeft := nofun }

/-! ## The waits (R152, R155, R156) -/

/-- A wait takes a sample or the fixed delay, and returns a value or goes on below its bound. -/
theorem inv_of_wait {s : State} {q : Option Ret} {e : Event} {p : List Level} {sy : Sync} {d n : Nat}
    (h : s.Inv) (hf : s.frm = .idle) (hw : s.ctl = .wait ∨ s.ctl = .txWait)
    (he : Window.next .outside e = some .outside) (hq : q ≠ some .busFault)
    (hzero : s.straps.pollLimit = .unbounded → n = 0)
    (hmost : ∀ b, pollBound s.straps.pollLimit = some b → n ≤ b ∧ (q = none → n < b)) :
    State.Inv { s with
      pinIn := p, sync := sy, draws := d, trace := s.trace ++ [e], pollCnt := n, ret := q } :=
  { h with
    windows := Window.run_snoc (h.outside hf)
      (he.trans (congrArg some (windowOf_idle (by exact hf)).symm))
    idle := fun hc => by rcases hw with hw | hw <;> simp [hw] at hc
    framer := fun hn => absurd hf hn
    retLegal := fun r hr => by
      obtain rfl : q = some r := hr
      rcases hw with hw | hw <;> cases r <;> simp_all [retFits]
    opDone := fun _ hbus => by rcases hw with hw | hw <;> simp [hw, Ctl.onBus] at hbus
    pollZero := hzero
    pollMost := fun b hb => (hmost b hb).1
    pollLeft := fun hp b hb => (hmost b hb).2 (polling_cases hp).1 }

theorem inv_pollSample {s : State} (h : s.Inv) (hp : polling s = true) (hf : s.frm = .idle) :
    (pollSample s).Inv := by
  have hw : s.ctl = .wait ∨ s.ctl = .txWait := (polling_cases hp).2.imp_right And.left
  obtain ⟨v, p, ff0, d, ⟨-, ht⟩ | ⟨-, hb, ht⟩ | ⟨n, -, hb, ht⟩⟩ := pollSample_eq s <;> rw [ht]
  · exact inv_of_wait h hf hw rfl nofun h.pollZero fun b hb => ⟨h.pollMost b hb, nofun⟩
  · exact inv_of_wait h hf hw rfl (by simp [(polling_cases hp).1]) h.pollZero fun b hb' => by
      simp [hb] at hb'
  · have hlt := h.pollLeft hp n hb
    refine inv_of_wait h hf hw rfl (by split <;> nofun) (fun hl => absurd hl (limit_of_pollBound hb))
      fun b hb' => ?_
    obtain rfl : n = b := by simpa [hb] using hb'
    exact ⟨hlt, fun hq => by simp at hq; omega⟩

theorem inv_fixedDelay {s : State} (h : s.Inv) (hf : s.frm = .idle) (hc : s.ctl = .txWait) :
    (fixedDelay s).Inv :=
  inv_of_wait (s := s) (q := some .ok) (e := .dly) h hf (.inr hc) rfl nofun h.pollZero
    fun b hb => ⟨h.pollMost b hb, nofun⟩

/-! ## The controller takes a returned value -/

/-- The codes 5, 6 and 7 are no result's (R90). -/
theorem RspKind.code_le (k : RspKind) : k.code.toNat ≤ 4 := by cases k <;> decide

/-- The command is answered (R28, R90), its `n` valid bytes of RBUF held. -/
theorem inv_respond {s : State} {k : RspKind} {n : Byte} {info : RspInfo} (h : s.Inv)
    (hf : s.frm = .idle) (hn : ∀ i < n.toNat, (Memory.read s.rbuf i).isSome) :
    (respond k n info s).Inv :=
  { h with
    windows := Window.run_snoc (h.outside hf) (congrArg some (windowOf_idle (by exact hf)).symm)
    idle := fun _ => ⟨hf, rfl⟩
    framer := fun hn => absurd hf hn
    retLegal := nofun
    opDone := nofun
    prim := nofun
    pollLeft := nofun
    codes := k.code_le
    response := fun _ => rfl
    validBytes := fun _ => hn }

/-- An abort is a response with no valid byte (R179). -/
theorem inv_abort {s : State} (k : RspKind) (h : s.Inv) (hf : s.frm = .idle) : (abort k s).Inv :=
  { inv_respond (k := k) (n := 0) (info := .none) h hf nofun with
    rbufWf := rfl
    framer := fun hn => absurd hf hn
    opDone := nofun
    validBytes := fun _ => nofun }

theorem inv_txStatusDone {s : State} (h : s.Inv) (hr : s.ret = some .ok) (hc : s.ctl = .txStatus) :
    (txStatusDone { s with ret := none }).Inv := by
  have hbus : s.ctl.onBus = true := by rw [hc]; rfl
  have ho : opArgs s = some (rburstArgs Config.txStatusAddress 1) := by simp [opArgs, hc]
  obtain ⟨status, d, ht, -⟩ := txStatusDone_eq { s with ret := none }
  rw [ht]
  exact
    { inv_respond (k := txResult (maskStatus status)) (n := 1) (info := .txstat (maskStatus status)) h
        (h.idle_of_ret hr) (h.received hr hbus ho rfl) with
      framer := fun hn => absurd (h.idle_of_ret hr) hn
      opDone := nofun }

/-- A good primitive answers a read with the bytes it received, a strobe or a write with none (R116). -/
theorem State.Inv.answered_bytes {s : State} (h : s.Inv) (hr : s.ret = some .ok) {n : Byte}
    (hn : n = 0 ∨ (s.ctl = .prim ∧ s.cOp = 0b011#3 ∧ n = s.cLen)) :
    ∀ i < n.toNat, (Memory.read s.rbuf i).isSome := by
  obtain rfl | ⟨hc, hop, rfl⟩ := hn
  · nofun
  · have ho : opArgs s = some (rburstArgs s.cAddr s.cLen) := by simp [opArgs, primArgs, hc, hop]
    exact h.received hr (by rw [hc]; rfl) ho rfl

/-- The controller enters another of its states, nothing left of the sub-step before (R21). -/
theorem inv_of_next {s : State} {c : Ctl} {tgt : Level} {n : Nat} (h : s.Inv) {r : Ret}
    (hr : s.ret = some r) (hc : c ≠ .ready) (hp : c ≠ .prim) (hn : n ≤ s.pollCnt)
    (hpoll : polling { s with ctl := c, tgtLevel := tgt, pollCnt := n, ret := none } = true → n = 0) :
    State.Inv { s with ctl := c, tgtLevel := tgt, pollCnt := n, ret := none } :=
  have hf := h.idle_of_ret hr
  { h with
    idle := fun hc' => absurd hc' hc
    framer := fun hn => absurd hf hn
    retLegal := nofun
    opDone := nofun
    prim := fun hc' => absurd hc' hp
    pollZero := fun hl => Nat.le_zero.1 (hn.trans_eq (h.pollZero hl))
    pollMost := fun _ hb => hn.trans (h.pollMost _ hb)
    pollLeft := fun hp' _ hb => (hpoll hp').trans_lt (pollBound_pos hb)
    response := fun hv => absurd (h.response hv) (h.busy_of_ret hr)
    validBytes := fun hv => absurd (h.response hv) (h.busy_of_ret hr) }

theorem inv_onReturn {s : State} {r : Ret} (h : s.Inv) (hr : s.ret = some r) : (onReturn r s).Inv := by
  have hf := h.idle_of_ret hr
  cases r with
  | busFault => exact inv_abort (s := s) .busFault h hf
  | timeout => exact inv_abort (s := s) .timeout h hf
  | ok =>
    rw [onReturn_ok]
    obtain ⟨hc, -⟩ | ⟨c, tgt, n, hc, hmem, ht, hn, hpoll⟩ | ⟨n, info, -, ht, hn⟩ | ⟨hc, ht⟩ :=
      afterOk_cases { s with ret := none }
    · have hfit := h.retLegal .ok hr
      rcases hc with hc | hc <;> simp [show s.ctl = _ from hc, retFits, Ctl.onBus] at hfit
    · rw [ht] at hpoll ⊢
      exact inv_of_next (s := s) h hr hc (fun hp => Ctl.prim_not_mem_leftTo _ (hp ▸ hmem)) hn hpoll
    · rw [ht]
      exact inv_respond (s := s) h hf (h.answered_bytes hr hn)
    · rw [ht]
      exact inv_txStatusDone h hr hc

theorem inv_ctlIdle {s : State} (h : s.Inv) (hr : s.ret = none) (hf : s.frm = .idle) :
    (ctlIdle s).Inv := by
  obtain ⟨-, ht⟩ | ⟨hc, ht⟩ | ⟨hc, -, ht⟩ | ⟨o, hbus, ho, ht⟩ | ⟨-, -, ht⟩ :=
    ctlIdle_cases s <;> rw [ht]
  · exact inv_respond h hf nofun
  · exact inv_pollSample h (by simpa [polling, hr] using hc) hf
  · exact inv_fixedDelay h hf hc
  · exact inv_loadOp h hr hf hbus ho
  · exact h

/-- Every small step keeps the invariant. -/
theorem inv_tick {s : State} (h : s.Inv) : (tick s).Inv := by
  obtain ⟨r, hr, ht⟩ | ⟨hr, hf, ht⟩ | ⟨-, hf, ht⟩ | ⟨-, hf, ht⟩ | ⟨-, hf, ht⟩ | ⟨-, hf, ht⟩ :=
    tick_cases s <;> rw [ht]
  · exact inv_onReturn h hr
  · exact inv_ctlIdle h hr hf
  · exact inv_frmSel h hf
  · exact inv_frmHdr h hf
  · exact inv_frmData h hf
  · exact inv_frmDesel h hf

theorem inv_proceed {s : State} (h : s.Inv) : (proceed s).Inv :=
  advance_keeps (P := State.Inv) (fun _ => inv_tick) _ h

/-! ## The host's moves -/

theorem inv_takeMove {s : State} (h : s.Inv) : (takeMove s).Inv :=
  { h with
    framer := fun hn => by
      obtain ⟨hbus, hr, o, ho, hop⟩ := h.framer hn
      exact ⟨hbus, hr, o, ho, hop.hdr, hop.sum, hop.dir, hop.stored⟩
    opDone := fun hr hbus => by
      obtain ⟨o, ho, hop, hz⟩ := h.opDone hr hbus
      exact ⟨o, ho, ⟨hop.hdr, hop.sum, hop.dir, hop.stored⟩, hz⟩ }

/-- An effective write (R31): a ready block has no operation whose registers could matter. -/
theorem inv_write {s : State} {i v : Byte} (h : s.Inv) (hc : s.ctl = .ready) (hi : i.toNat < 255) :
    State.Inv { s with dbuf := Memory.write s.dbuf i.toNat v } :=
  { h with
    dbufWf := Memory.write_wf _ _ _ hi h.dbufWf
    framer := fun hn => absurd (h.idle hc).1 hn
    opDone := fun hr => by simp [(h.idle hc).2] at hr }

/-- Acceptance (R25, R29), the port's record latched. -/
theorem inv_accepted {s : State} (h : s.Inv) (hc : s.ctl = .ready) (i : Instr) (w : PortWord) :
    (accepted i (latchRecord w s)).Inv := by
  obtain ⟨op, addr, len, level, tgt, n, ht, hop, hn, hwait, htx⟩ := accepted_eq i (latchRecord w s)
  rw [ht]
  exact
    { h with
      csPhase := h.csPhase.trans (by rw [(h.idle hc).1])
      windows := h.outside (h.idle hc).1
      idle := fun hc' => absurd hc' (entryOf_ne_ready i)
      framer := fun hn => absurd rfl hn
      ferrClear := nofun
      dataLeft := nofun
      allDone := nofun
      retLegal := nofun
      opDone := nofun
      prim := hop
      pollZero := fun hl => Nat.le_zero.1 (hn.trans_eq (h.pollZero hl))
      pollMost := fun _ hb => hn.trans (h.pollMost _ hb)
      pollLeft := fun hp b hb => by
        obtain ⟨-, hw | ⟨hw, -⟩⟩ := polling_cases hp
        · exact (hwait hw).trans_lt (pollBound_pos hb)
        · exact absurd hw htx
      response := nofun
      validBytes := nofun }

/-- Settles O48: every kind of step keeps the invariant, and the small steps of the pace do. -/
theorem everyStepKeepsTheInvariant : Obligations.EveryStepKeepsTheInvariant := by
  intro s t h hstep
  obtain ⟨-, rfl⟩ | ⟨m, -, rfl⟩ | ⟨i, v, m, -, -, rfl⟩ | ⟨i, v, m, -, hc, hi, rfl⟩ |
    ⟨w, m, -, hc, hexec⟩ | ⟨m, -, rfl⟩ := step_cases hstep
  · exact inv_proceed h
  · exact inv_proceed (inv_takeMove h)
  · exact inv_proceed (inv_takeMove h)
  · exact inv_write (inv_takeMove h) hc hi
  · rw [exec_ready (by exact hc)] at hexec
    obtain rfl := Host.Outcome.next.inj hexec
    exact advance_keeps (P := State.Inv) (fun _ => inv_tick) _
      (inv_accepted (inv_takeMove h) hc _ w)
  · exact inv_doReset (inv_takeMove h)

end Sys2Proof.Machine
end

section
/-! SUPPORT. Proofs/Sequencers.lean: the controller and the framer move along their tables, and `txstat` is
written in one place (R21, R22, R27, R110). -/

namespace Sys2Proof.Machine

/-! ## The controller (R21) -/

theorem pollSample_ctl_txstat (s : State) :
    (pollSample s).ctl = s.ctl ∧ (pollSample s).txstat = s.txstat := by
  obtain ⟨v, p, ff0, d, ⟨-, h⟩ | ⟨-, -, h⟩ | ⟨n, -, -, h⟩⟩ := pollSample_eq s <;> rw [h] <;>
    exact ⟨rfl, rfl⟩

/-- With no value returned, `txstat` stays, and the controller moves only to answer a reserved code (R89). -/
theorem tick_of_no_return {s : State} (hr : s.ret = none) :
    (tick s).txstat = s.txstat ∧
      ((tick s).ctl = s.ctl ∨ (s.ctl = .illegal ∧ (tick s).ctl = .ready)) := by
  cases hf : s.frm with
  | idle =>
    rw [tick_of_idle hr hf]
    obtain ⟨hc, h⟩ | ⟨-, h⟩ | ⟨-, -, h⟩ | ⟨o, -, -, h⟩ | ⟨-, -, h⟩ := ctlIdle_cases s <;> rw [h]
    · exact ⟨rfl, .inr ⟨hc, rfl⟩⟩
    · exact ⟨(pollSample_ctl_txstat s).2, .inl (pollSample_ctl_txstat s).1⟩
    all_goals exact ⟨rfl, .inl rfl⟩
  | sel => rw [tick_of_sel hr hf]; exact ⟨rfl, .inl rfl⟩
  | hdr =>
    rw [tick_of_hdr hr hf]
    obtain ⟨r, b, d, h⟩ | ⟨b, d, h⟩ := frmHdr_eq s <;> rw [h] <;> exact ⟨rfl, .inl rfl⟩
  | data =>
    rw [tick_of_data hr hf]
    obtain ⟨out, r, b, d, m, h, -, -⟩ | ⟨out, b, d, h⟩ := frmData_eq s <;> rw [h] <;>
      exact ⟨rfl, .inl rfl⟩
  | desel => rw [tick_of_desel hr hf]; exact ⟨rfl, .inl rfl⟩

/-- A move to `C_READY` is a row of the table, or no move. -/
theorem ctl_moves_of_ready {s t : State} (h : t.ctl = .ready) : t.ctl = s.ctl ∨ t.ctl ∈ s.ctl.leftTo := by
  by_cases hc : s.ctl = .ready
  · exact .inl (h.trans hc.symm)
  · exact .inr (h ▸ Ctl.ready_mem_leftTo hc)

theorem afterOk_ctl (s : State) : (afterOk s).ctl = s.ctl ∨ (afterOk s).ctl ∈ s.ctl.leftTo := by
  obtain ⟨-, h⟩ | ⟨c, tgt, n, -, hmem, h, -⟩ | ⟨n, info, -, h, -⟩ | ⟨-, h⟩ := afterOk_cases s <;> rw [h]
  · exact .inl rfl
  · exact .inr hmem
  · exact ctl_moves_of_ready rfl
  · obtain ⟨k, -, ha⟩ := answered_txStatusDone s
    exact ctl_moves_of_ready ha.ctl

theorem tick_ctl (s : State) : (tick s).ctl = s.ctl ∨ (tick s).ctl ∈ s.ctl.leftTo := by
  cases hr : s.ret with
  | none =>
    obtain ⟨-, h | ⟨-, h⟩⟩ := tick_of_no_return hr
    · exact .inl h
    · exact ctl_moves_of_ready h
  | some r =>
    rw [tick_of_ret hr]
    cases r with
    | ok => exact afterOk_ctl { s with ret := none }
    | busFault | timeout => exact ctl_moves_of_ready rfl

/-- A sequence that leads on is left to `C_READY` by an error alone, one that fits its state (R177, R178). -/
theorem error_of_early_end {s : State} (h : s.Inv) (hbusy : s.ctl ≠ .ready)
    (hready : (tick s).ctl = .ready) (hill : s.ctl ≠ .illegal)
    (hok : ∀ k, endsWith (some .ok) s.ctl k = false) :
    s.ret = some .busFault ∧ s.ctl.onBus = true ∨
      s.ret = some .timeout ∧ (s.ctl = .wait ∨ s.ctl = .txWait) := by
  obtain hsilent | ⟨k, hk, -⟩ := tick_silentOrEnds s
  · exact absurd (hsilent.ready hready) hbusy
  · cases hr : s.ret with
    | none => simp [hr, endsWith, hill] at hk
    | some r =>
      have hfit := h.retLegal r hr
      cases r with
      | ok => simp [hr, hok] at hk
      | busFault => exact .inl ⟨rfl, hfit⟩
      | timeout => exact .inr ⟨rfl, by simpa [retFits] using hfit⟩

/-- Settles O17: `afterOk` has the rows that lead on, and every other row of R21 ends in `C_READY`. -/
theorem controllerFollowsItsTable : Obligations.ControllerFollowsItsTable := by
  refine ⟨tick_ctl, fun s h hready => ⟨fun hc => ?_, fun hc => ?_⟩, fun i s hc hpace => ?_⟩
  · obtain ⟨hr, -⟩ | ⟨-, hw⟩ := error_of_early_end h (by rcases hc with hc | hc | hc | hc <;> simp [hc])
        hready (by rcases hc with hc | hc | hc | hc <;> simp [hc])
        (by rcases hc with hc | hc | hc | hc <;> simp [hc, endsWith])
    · exact hr
    · rcases hc with hc | hc | hc | hc <;> simp [hc] at hw
  · obtain ⟨-, hbus⟩ | ⟨hr, -⟩ := error_of_early_end h (by simp [hc]) hready (by simp [hc])
        (by simp [hc, endsWith])
    · simp [hc, Ctl.onBus] at hbus
    · exact hr
  · exact ⟨_, exec_ready hc i, by rw [hpace]; exact accepted_ctl i s⟩

/-! ## The framer (R22) -/

theorem onReturn_frm (r : Ret) (s : State) : (onReturn r s).frm = s.frm := by
  cases r with
  | ok => exact (afterOk_frm_cs { s with ret := none }).1
  | busFault | timeout => rfl

theorem tick_frm (s : State) : (tick s).frm = s.frm ∨ (tick s).frm ∈ s.frm.leftTo := by
  obtain ⟨r, -, h⟩ | ⟨-, hf, h⟩ | ⟨-, hf, h⟩ | ⟨-, hf, h⟩ | ⟨-, hf, h⟩ | ⟨-, hf, h⟩ := tick_cases s <;>
    rw [h]
  · exact .inl (onReturn_frm r s)
  · obtain ⟨-, h⟩ | ⟨-, h⟩ | ⟨-, -, h⟩ | ⟨o, -, -, h⟩ | ⟨-, -, h⟩ := ctlIdle_cases s <;> rw [h]
    · exact .inl rfl
    · exact .inl (pollSample_frm_cs s).1
    · exact .inl rfl
    · exact .inr (by simp [hf, Frm.leftTo])
    · exact .inl rfl
  · exact .inr (by simp [hf, Frm.leftTo, frmSel])
  · refine .inr ?_
    obtain ⟨r, b, d, h⟩ | ⟨b, d, h⟩ := frmHdr_eq s <;> rw [h, hf]
    · rcases phase_after_ok s.cnt with hp | hp <;> simp only [hp] <;> decide
    · simp [Frm.leftTo]
  · refine .inr ?_
    obtain ⟨out, r, b, d, m, h, -, -⟩ | ⟨out, b, d, h⟩ := frmData_eq s <;> rw [h, hf]
    · rcases phase_after_ok (s.cnt - 1) with hp | hp <;> simp only [hp] <;> decide
    · simp [Frm.leftTo]
  · exact .inr (by simp [hf, Frm.leftTo, frmDesel])

/-- Settles O18: the second half is a clause of the invariant, which the small step keeps. -/
theorem framerFollowsItsTable : Obligations.FramerFollowsItsTable :=
  ⟨tick_frm, fun _ h hn => ((inv_tick h).framer hn).1⟩

/-! ## `txstat` (R27) -/

/-- After a good status read its byte is in `RBUF[0]` (R134). -/
theorem State.Inv.status_held {s : State} (h : s.Inv) (hr : s.ret = some .ok) (hc : s.ctl = .txStatus) :
    ∃ b, Memory.read s.rbuf 0 = some b := by
  have ho : opArgs s = some (rburstArgs Config.txStatusAddress 1) := by simp [opArgs, hc]
  exact Option.isSome_iff_exists.1 (h.received hr (by rw [hc]; rfl) ho rfl 0 Nat.one_pos)

/-- Settles O20: of all that follows a good sub-step only TX step 5 writes `txstat`. -/
theorem txstatIsWrittenInOnePlace : Obligations.TxstatIsWrittenInOnePlace := by
  intro s hbf hto
  cases hr : s.ret with
  | none => exact .inl (tick_of_no_return hr).1
  | some r =>
    cases r with
    | busFault => exact absurd hr hbf
    | timeout => exact absurd hr hto
    | ok =>
      rw [tick_of_ret hr, onReturn_ok]
      obtain ⟨-, h⟩ | ⟨c, tgt, n, -, -, h, -⟩ | ⟨n, info, -, h, -⟩ | ⟨hc, h⟩ :=
        afterOk_cases { s with ret := none } <;> rw [h]
      · exact .inl rfl
      · exact .inl rfl
      · exact .inl rfl
      · obtain ⟨status, d, ht, hstatus⟩ := txStatusDone_eq { s with ret := none }
        refine .inr ⟨hc, rfl, fun b hb => ?_, fun hinv => hinv.status_held hr hc⟩
        rw [ht, hstatus b hb]
        rfl

end Sys2Proof.Machine
end

section
/-! SUPPORT. Proofs/HostSide.lean: what the host's moves and the commands do to the block's surroundings: DBUF,
the constants, the port (R29, R30, R31, R33, R34, R38). -/

namespace Sys2Proof.Machine

/-- Settles O7: each value is a field of `State.reset`. -/
theorem resetStateHasTheSpecValues : Obligations.ResetStateHasTheSpecValues :=
  ⟨rfl, rfl, rfl, rfl, rfl, rfl, rfl, rfl, rfl, rfl, rfl⟩

/-! ## The host's next move -/

theorem takeMove_of_cons {s : State} {m : HostMove} {moves : List HostMove} (h : s.hostIn = m :: moves) :
    takeMove s = { s with hostIn := moves } := by
  simp [takeMove, h]

/-- A write meets a ready block: one byte of DBUF, at an index it has (R31). -/
theorem step_of_write_ready {s : State} {index value : Byte} {moves : List HostMove} (hc : s.ctl = .ready)
    (h : s.hostIn = .writeDbuf index value :: moves) :
    step s =
      if index.toNat < 255 then
        .next { s with hostIn := moves, dbuf := Memory.write s.dbuf index.toNat value }
      else .fault .noSuchDbufByte := by
  simp [step, h, hostWrite, State.busy, State.ready, hc, takeMove, Config.bufLen]

/-- Settles O8: a block at rest stays at rest, and the invariant says that a ready one is at rest. -/
theorem readyBlockWithoutCommandIsStill : Obligations.ReadyBlockWithoutCommandIsStill := by
  intro s h hc hmove
  obtain ⟨hf, hr⟩ := h.idle hc
  rw [step_of_no_move hmove, proceed, advance_of_ready hc hf hr]

/-- Settles O9: a ready block takes the move, latches the record and runs the instruction. -/
theorem stepRunsTheDecodedInstruction : Obligations.StepRunsTheDecodedInstruction := by
  intro s w moves hc h
  rw [step_of_issue hc h, takeMove_of_cons h]
  rfl

/-- Settles O11: the block goes on by small steps, none of which writes the port, a latch or DBUF. -/
theorem busyPortStalls : Obligations.BusyPortStalls := by
  intro s w moves hbusy h
  obtain ⟨-, -, hstall⟩ := blockGoesOnByItself s
  have k := sameCommand_advance (s.pace + 1) s
  exact ⟨⟨_, (hstall hbusy).1 w moves h, rfl, k.hostIn, k.cOp, k.cAddr, k.cLen, k.cLevel, k.dbuf⟩,
    exec_busy hbusy⟩

/-- Settles O12: a write that meets a ready block is the whole step; one that meets a busy block falls through
to the small steps. -/
theorem hostWritesDbufOnlyWhileReady : Obligations.HostWritesDbufOnlyWhileReady := by
  intro s index value moves h hi
  by_cases hc : s.ctl = .ready
  · rw [step_of_write_ready hc h, if_pos hi]
    exact ⟨_, rfl, rfl,
      fun _ => ⟨Memory.read_write_same .., fun j hj => Memory.read_write_other _ _ hj, rfl⟩, (absurd hc ·)⟩
  · obtain ⟨-, -, hignored⟩ := blockGoesOnByItself s
    have k := sameCommand_advance (s.pace + 1) { s with hostIn := moves }
    exact ⟨_, (hignored hc).2 index value moves h, k.hostIn, (absurd · hc), fun _ => ⟨k.dbuf, rfl⟩⟩

/-- Settles O13: index 255 is past the last byte of DBUF. -/
theorem writeBeyondDbufFaults : Obligations.WriteBeyondDbufFaults := by
  intro s value moves hc h
  rw [step_of_write_ready hc h, if_neg (by decide)]

/-! ## What no command writes -/

/-- Acceptance, small steps and a stall all leave a command's surroundings alone. -/
theorem exec_surroundings {i : Instr} {s t : State} (h : exec i s = .next t) :
    t.dbuf = s.dbuf ∧ t.cfg = s.cfg ∧ t.pa0 = s.pa0 ∧ t.straps = s.straps ∧ t.hostIn = s.hostIn ∧
      t.pace = s.pace := by
  by_cases hc : s.ctl = .ready
  · rw [exec_ready hc] at h
    obtain rfl := Host.Outcome.next.inj h
    obtain ⟨-, -, -, -, -, hdbuf, -, hstraps, hcfg, hpa0, hhost, -, -, hpace⟩ := accepted_rest i s
    have k := sameCommand_advance s.pace (accepted i s)
    exact ⟨k.dbuf.trans hdbuf, k.cfg.trans hcfg, k.pa0.trans hpa0, k.straps.trans hstraps,
      k.hostIn.trans hhost, k.pace.trans hpace⟩
  · rw [exec_busy hc] at h
    obtain rfl := Host.Outcome.next.inj h
    exact ⟨rfl, rfl, rfl, rfl, rfl, rfl⟩

/-- Settles O42: an instruction is its acceptance and small steps, or nothing. -/
theorem commandsLeaveTheirSurroundings : Obligations.CommandsLeaveTheirSurroundings := by
  intro i s t h
  obtain ⟨hdbuf, hrest⟩ := exec_surroundings h
  exact ⟨fun j => by rw [hdbuf], hrest⟩

/-- Settles O14: no kind of step writes a strap or a constant, a reset included. -/
theorem constantsNeverChange : Obligations.ConstantsNeverChange := by
  intro s t hstep
  obtain ⟨-, rfl⟩ | ⟨m, -, rfl⟩ | ⟨i, v, m, -, -, rfl⟩ | ⟨i, v, m, -, -, -, rfl⟩ |
    ⟨w, m, -, -, hexec⟩ | ⟨m, -, rfl⟩ := step_cases hstep
  · have k := sameCommand_advance (s.pace + 1) s
    exact ⟨k.straps, k.cfg, k.pa0⟩
  · have k := sameCommand_advance (s.pace + 1) (takeMove s)
    exact ⟨k.straps, k.cfg, k.pa0⟩
  · have k := sameCommand_advance (s.pace + 1) (takeMove s)
    exact ⟨k.straps, k.cfg, k.pa0⟩
  · exact ⟨rfl, rfl, rfl⟩
  · obtain ⟨-, hcfg, hpa0, hstraps, -⟩ := exec_surroundings hexec
    exact ⟨hstraps, hcfg, hpa0⟩
  · exact ⟨rfl, rfl, rfl⟩

/-- Settles O15: of the kinds of step but a reset, an effective write alone touches DBUF, at its index. -/
theorem onlyTheHostChangesDbuf : Obligations.OnlyTheHostChangesDbuf := by
  intro s t hstep hreset j hother
  obtain ⟨-, rfl⟩ | ⟨m, -, rfl⟩ | ⟨i, v, m, -, -, rfl⟩ | ⟨i, v, m, h, hc, -, rfl⟩ |
    ⟨w, m, -, -, hexec⟩ | ⟨m, h, -⟩ := step_cases hstep
  · exact congrArg (Memory.read · j) (sameCommand_advance (s.pace + 1) s).dbuf
  · exact congrArg (Memory.read · j) (sameCommand_advance (s.pace + 1) (takeMove s)).dbuf
  · exact congrArg (Memory.read · j) (sameCommand_advance (s.pace + 1) (takeMove s)).dbuf
  · exact Memory.read_write_other _ _ (hother i v m h hc).symm
  · exact congrArg (Memory.read · j) (exec_surroundings hexec).1
  · exact absurd h (hreset m)

end Sys2Proof.Machine
end

section
/-! SUPPORT. Proofs/Samples.lean: a sample of the line is an event of the wait loop alone (R53, R57, R152). -/

namespace Sys2Proof.Machine

/-- A response is no sample. -/
theorem Answered.no_sample {k : RspKind} {s t : State} (h : Answered k s t) (v : Level) :
    t.trace ≠ s.trace ++ [.s v] := by
  obtain ⟨info, ht⟩ := h.event
  simp [ht]

/-- What follows a good sub-step leads on without an event, or answers (R116, R130, R134, R154). -/
theorem afterOk_no_sample (s : State) (v : Level) : (afterOk s).trace ≠ s.trace ++ [.s v] := by
  obtain ⟨-, h⟩ | ⟨c, tgt, n, -, -, h, -⟩ | ⟨n, info, -, h, -⟩ | ⟨-, h⟩ := afterOk_cases s <;> rw [h]
  · simp
  · simp
  · exact (answered_respond .ok n info s).no_sample v
  · obtain ⟨k, -, ha⟩ := answered_txStatusDone s
    exact ha.no_sample v

/-- Taking a returned value is never a sample (R152, R178). -/
theorem onReturn_no_sample (r : Ret) (s : State) (v : Level) :
    (onReturn r s).trace ≠ s.trace ++ [.s v] := by
  cases r with
  | ok => exact afterOk_no_sample { s with ret := none } v
  | busFault => exact (answered_abort .busFault s).no_sample v
  | timeout => exact (answered_abort .timeout s).no_sample v

/-- With the framer idle and nothing returned, only the two waits take a sample (R152, R155). -/
theorem wait_of_ctlIdle_sample {s : State} {v : Level} (h : (ctlIdle s).trace = s.trace ++ [.s v]) :
    s.ctl = .wait ∨ (s.ctl = .txWait ∧ s.straps.policy = .signalPoll) := by
  obtain ⟨-, hi⟩ | ⟨hc, -⟩ | ⟨-, -, hi⟩ | ⟨o, -, -, hi⟩ | ⟨-, -, hi⟩ := ctlIdle_cases s
  · exact absurd (hi ▸ h) ((answered_respond .cmdIllegal 0 .none s).no_sample v)
  · exact hc
  · simp [hi, fixedDelay] at h
  · simp [hi] at h
  · simp [hi] at h

/-- A small step that takes a sample is a turn of the wait loop, the framer idle (R152). -/
theorem polling_of_sample {s : State} {v : Level} (h : (tick s).trace = s.trace ++ [.s v]) :
    polling s = true ∧ s.frm = .idle := by
  obtain ⟨r, -, ht⟩ | ⟨hr, hf, ht⟩ | ⟨-, -, ht⟩ | ⟨-, -, ht⟩ | ⟨-, -, ht⟩ | ⟨-, -, ht⟩ :=
    tick_cases s <;> rw [ht] at h
  · exact absurd h (onReturn_no_sample r s v)
  · exact ⟨by simpa [polling, hr] using wait_of_ctlIdle_sample h, hf⟩
  · simp [frmSel] at h
  · obtain ⟨r, b, d, hd⟩ | ⟨b, d, hd⟩ := frmHdr_eq s <;> simp [hd] at h
  · obtain ⟨out, r, b, d, m, hd, -, -⟩ | ⟨out, b, d, hd⟩ := frmData_eq s <;> simp [hd] at h
  · simp [frmDesel] at h

/-- Settles O19: the wait loop runs with the framer idle, and there the invariant has chip-select deasserted. -/
theorem samplesOnlyOutsideWindows : Obligations.SamplesOnlyOutsideWindows := by
  intro s v hinv hsample
  obtain ⟨hpoll, hidle⟩ := polling_of_sample hsample
  have hcs : s.cs = false := by rw [hinv.csPhase, hidle]; rfl
  exact ⟨hcs, hidle, (polling_cases hpoll).2.imp_right And.left⟩

end Sys2Proof.Machine
end

section
/-! SUPPORT. Proofs/Codec.lean: the fields of a header byte and of a command record, and what decoding and
encoding do with them (R80 to R83, R86, R88, R89). -/

namespace Sys2Proof

/-! ## Address operands -/

/-- An address that fits its field is its low six bits (R80, C1). -/
theorem addrOperand_low6 {addr : Byte} (h : addrFits addr = true) : addrOperand (low6 addr) = addr := by
  simp only [addrFits, decide_eq_true_eq] at h
  simp only [addrOperand, low6]
  bv_omega

/-! ## The fields of a header byte (R80) -/

theorem headerMode_append (mode : BitVec 2) (addr : Addr) : headerMode (mode ++ addr) = mode :=
  BitVec.extractLsb'_append_eq_left

theorem headerAddr_append (mode : BitVec 2) (addr : Addr) : headerAddr (mode ++ addr) = addr :=
  BitVec.extractLsb'_append_eq_right

theorem headerMode_append_headerAddr (h : Byte) : headerMode h ++ headerAddr h = h :=
  BitVec.extractLsb'_append_extractLsb'

theorem headerMode_cases (h : Byte) :
    headerMode h = 0b00#2 ∨ headerMode h = 0b01#2 ∨ headerMode h = 0b11#2 ∨ headerMode h = 0b10#2 := by
  generalize headerMode h = mode
  revert mode; decide

theorem opCode_cases (op : BitVec 3) :
    op = 0b000#3 ∨ op = 0b001#3 ∨ op = 0b010#3 ∨ op = 0b011#3 ∨ op = 0b100#3 ∨ op = 0b101#3 ∨
      op = 0b110#3 ∨ op = 0b111#3 := by
  revert op; decide

/-- Mode `0b10` is the byte range `0x80` to `0xBF` (R86). -/
theorem headerMode_reserved_iff (h : Byte) :
    headerMode h = 0b10#2 ↔ 0x80 ≤ h.toNat ∧ h.toNat ≤ 0xBF := by
  have hmode : (headerMode h).toNat = h.toNat / 64 % 4 := by
    simp [headerMode, BitVec.extractLsb'_toNat, Nat.shiftRight_eq_div_pow]
  rw [← BitVec.toNat_inj, hmode, BitVec.toNat_ofNat]
  omega

/-! ## The framing function (R82) -/

/-- The mode bits of a framed byte are the flag's. -/
theorem headerMode_frame (a f : Byte) : headerMode (frame a f) = headerMode f := by
  have hmask : headerMode Config.addrMask = 0 := by decide
  unfold headerMode at hmask ⊢
  simp [frame, BitVec.extractLsb'_or, BitVec.extractLsb'_and, hmask]

/-- The address bits of a framed byte are the address's: a flag has none. -/
theorem headerAddr_frame (a : Byte) {f : Byte} (hf : headerAddr f = 0) :
    headerAddr (frame a f) = headerAddr a := by
  have hmask : headerAddr Config.addrMask = BitVec.allOnes 6 := by decide
  unfold headerAddr at hmask hf ⊢
  rw [frame, BitVec.extractLsb'_or, BitVec.extractLsb'_and, hmask, hf, BitVec.and_allOnes,
    show (0 : Addr) = 0#6 from rfl, BitVec.or_zero]

theorem headerAddr_eq_low6 (a : Byte) : headerAddr a = low6 a := by
  simp [headerAddr, low6, BitVec.setWidth_eq_extractLsb']

/-- A byte whose two fields are those of a flag and of an address is the framed byte. -/
theorem frame_of_fields {a f h : Byte} (hf : headerAddr f = 0) (hmode : headerMode f = headerMode h)
    (haddr : headerAddr a = headerAddr h) : frame a f = h := by
  rw [← headerMode_append_headerAddr (frame a f), headerMode_frame, headerAddr_frame a hf, hmode, haddr,
    headerMode_append_headerAddr]

/-- Framing takes the low six bits of its address itself (R82, C1). -/
theorem frame_low6 (a : Byte) {f : Byte} (hf : headerAddr f = 0) :
    frame (addrOperand (low6 a)) f = frame a f := by
  refine frame_of_fields hf (headerMode_frame a f).symm ?_
  rw [headerAddr_frame a hf, headerAddr_eq_low6, headerAddr_eq_low6, Machine.low6_addrOperand]

/-- Settles O4: the mask has no mode bit, and a flag no address bit. -/
theorem frameMasksTheAddress : Obligations.FrameMasksTheAddress := by
  intro a f hf
  have haddr : headerAddr f = 0 := by rcases hf with rfl | rfl | rfl <;> decide
  exact ⟨rfl, headerMode_frame a f, headerAddr_frame a haddr⟩

/-! ## Decoding -/

theorem decodeMode_of_reserved {h : Byte} (hm : headerMode h = 0b10#2) (len : Byte) :
    decodeMode h len = .hdrReserved (addrOperand (headerAddr h)) := by
  simp [decodeMode, hm]

/-- The headers that have a row of their own have no reserved mode (R83, R86). -/
theorem decodeHeader_of_reserved {h : Byte} (hm : headerMode h = 0b10#2) (len : Byte) :
    decodeHeader h len = .hdrReserved (addrOperand (headerAddr h)) := by
  have hne : ∀ a : Byte, headerMode a ≠ 0b10#2 → h ≠ a := fun a ha e => ha (e ▸ hm)
  simp only [decodeHeader, hne 0x36#8 (by decide), hne 0x35#8 (by decide), hne 0x7E#8 (by decide),
    hne 0x40#8 (by decide), hne 0x7F#8 (by decide), hne 0xFA#8 (by decide), if_false]
  exact decodeMode_of_reserved hm len

/-- Settles O1: a code or a header picks its row, and an address that fits survives its field. -/
theorem decodeUndoesEncode : Obligations.DecodeUndoesEncode := by
  intro i hwf
  cases i with
  | strobe addr => exact congrArg Instr.strobe (addrOperand_low6 hwf)
  | wburst addr len => exact congrArg (Instr.wburst · len) (addrOperand_low6 hwf)
  | rburst addr len => exact congrArg (Instr.rburst · len) (addrOperand_low6 hwf)
  | hdrReserved addr =>
    refine (decodeHeader_of_reserved (headerMode_append _ _) 0).trans ?_
    rw [headerAddr_append, addrOperand_low6 hwf]
  | _ => rfl

/-- Settles O3: each word picks its row of the table. -/
theorem wordsDecodeAsTheTableSays : Obligations.WordsDecodeAsTheTableSays :=
  ⟨rfl, rfl, rfl, rfl, rfl, rfl, rfl, rfl, rfl, rfl, rfl, rfl⟩

/-! ## Encoding what was decoded -/

/-- The word `v` has the code of `w` and, as far as that code uses them, its address and length (R88). -/
def PortWord.SameOperation (w v : PortWord) : Prop :=
  v.opField = w.opField ∧
  ((w.opField = 0b000#3 ∨ w.opField = 0b001#3 ∨ w.opField = 0b011#3) → v.addrField = w.addrField) ∧
  ((w.opField = 0b001#3 ∨ w.opField = 0b011#3) → v.lenField = w.lenField)

theorem sameOperation_cmd3 (op : BitVec 3) (addr : Addr) (len : Byte) (level : Level) :
    PortWord.SameOperation (.cmd3 op addr len level) (encode (decodeCmd op addr len level)) := by
  unfold PortWord.SameOperation
  rcases opCode_cases op with rfl | rfl | rfl | rfl | rfl | rfl | rfl | rfl <;>
    simp [decodeCmd, encode, PortWord.opField, PortWord.addrField, PortWord.lenField,
      Machine.low6_addrOperand]

/-- A header with no row of its own (R81, R86). -/
theorem sameOperation_mode {h : Byte} (hne : h ≠ 0xFA#8) (len : Byte) :
    PortWord.SameOperation (.hdr8 h len) (encode (decodeMode h len)) := by
  unfold PortWord.SameOperation
  rcases headerMode_cases h with hm | hm | hm | hm <;>
    simp [decodeMode, hm, hne, encode, PortWord.opField, PortWord.addrField, PortWord.lenField,
      Machine.low6_addrOperand, headerMode_append]

/-- A strobe's length is an ignored operand (R88). -/
theorem PortWord.SameOperation.of_strobe {w v : PortWord} (hw : w.opField = 0b000#3)
    (hv : v.opField = 0b000#3) (haddr : v.addrField = w.addrField) : SameOperation w v :=
  ⟨hv.trans hw.symm, fun _ => haddr, fun h => by simp [hw] at h⟩

theorem sameOperation_hdr8 (h len : Byte) :
    PortWord.SameOperation (.hdr8 h len) (encode (decodeHeader h len)) := by
  unfold decodeHeader
  split_ifs with h1 h2 h3 h4 h5 h6
  · subst h1; exact .of_strobe rfl rfl rfl
  · subst h2; exact .of_strobe rfl rfl rfl
  · subst h3; exact ⟨rfl, fun _ => rfl, fun _ => rfl⟩
  · subst h4; exact ⟨rfl, fun _ => rfl, fun _ => rfl⟩
  · subst h5; exact ⟨rfl, fun _ => rfl, fun _ => rfl⟩
  · subst h6; exact ⟨rfl, fun _ => rfl, fun _ => rfl⟩
  · exact sameOperation_mode h6 len

/-- Settles O2: a record keeps its code and the operands its code uses, and so does a header's row. -/
theorem decodedWordKeepsItsCode : Obligations.DecodedWordKeepsItsCode := by
  intro w
  cases w with
  | cmd3 op addr len level => exact sameOperation_cmd3 op addr len level
  | hdr8 h len => exact sameOperation_hdr8 h len

end Sys2Proof
end

section
/-! SUPPORT. Proofs/Headers.lean: the header of every operation, the commands that stand for another, and the
record a header word names (R81, R83, R86, R92; log entry 11). -/

namespace Sys2Proof.Machine

/-! ## The header an operation has -/

/-- An operation's flag is one of R81, which has no address bit. -/
theorem opArgs_flag {s : State} {o : OpArgs} (h : opArgs s = some o) :
    o.flag = Config.flagStrobe ∨ o.flag = Config.writeBurstFlag ∨ o.flag = Config.readBurstFlag := by
  cases hc : s.ctl <;> simp only [opArgs, hc, primArgs] at h
  case prim => split_ifs at h <;> cases h <;> simp [strobeArgs, wburstArgs, rburstArgs]
  all_goals cases h <;> simp [strobeArgs, wburstArgs, rburstArgs]

/-- A header's address field, a host's address operand on its way, and a flag of the header's mode make the
header again (R81, R82). -/
theorem frame_headerAddr {f h : Byte} (hf : headerAddr f = 0) (hmode : headerMode f = headerMode h) :
    frame (addrOperand (low6 (addrOperand (headerAddr h)))) f = h := by
  refine frame_of_fields hf hmode ?_
  rw [low6_addrOperand, headerAddr_eq_low6 (addrOperand _), low6_addrOperand]

/-- The operation of the row that a header's mode decodes to has that header (R81, R82). -/
theorem opArgs_accepted_decodeMode {h : Byte} (hm : headerMode h ≠ 0b10#2) (len : Byte) (s : State) :
    ∃ o, opArgs (accepted (decodeMode h len) s) = some o ∧ (loadOp o s).hdr = h := by
  obtain hmode | hmode | hmode | hmode := headerMode_cases h
  · refine ⟨strobeArgs _, by simp only [decodeMode, hmode, if_true]; rfl, ?_⟩
    exact frame_headerAddr (f := Config.flagStrobe) (by decide) (by rw [hmode]; decide)
  · refine ⟨wburstArgs _ len, by simp only [decodeMode, hmode]; rfl, ?_⟩
    exact frame_headerAddr (f := Config.writeBurstFlag) (by decide) (by rw [hmode]; decide)
  · refine ⟨rburstArgs _ len, by simp only [decodeMode, hmode]; rfl, ?_⟩
    exact frame_headerAddr (f := Config.readBurstFlag) (by decide) (by rw [hmode]; decide)
  · exact absurd hmode hm

/-- Settles O5: the mode of a header is that of a flag of R81, and the operation of a header's own row has
that header. -/
theorem noOperationHasAReservedHeader : Obligations.NoOperationHasAReservedHeader := by
  refine ⟨fun s o ho => ?_, fun h hh => ?_⟩
  · have hmode : headerMode (loadOp o s).hdr ≠ 0b10#2 := by
      rw [loadOp_hdr, headerMode_frame]
      rcases opArgs_flag ho with hf | hf | hf <;> rw [hf] <;> decide
    exact ⟨hmode, mt (headerMode_reserved_iff _).2 hmode⟩
  · have hmode : headerMode h ≠ 0b10#2 := by rw [Ne, headerMode_reserved_iff]; omega
    obtain ⟨o, ho, hhdr⟩ := opArgs_accepted_decodeMode hmode 0 State.reset
    exact ⟨_, o, ho, hhdr⟩

/-! ## Commands that stand for another (R92) -/

/-- The primitive that each of the six commands of R92 stands for; any other instruction stands for itself. -/
def primitiveOf : Instr → Instr
  | .sidle => .strobe 0x36
  | .stx => .strobe 0x35
  | .wrPatable len => .wburst 0x3E len
  | .wrConfig len => .wburst 0x00 len
  | .wrTxfifo len => .wburst 0x3F len
  | .rdTxstatus => .rburst 0x3A 1
  | i => i

theorem accepted_primitiveOf (i : Instr) (s : State) : accepted (primitiveOf i) s = accepted i s := by
  cases i <;> rfl

theorem exec_primitiveOf (i : Instr) (s : State) : exec (primitiveOf i) s = exec i s := by
  rw [exec_eq, exec_eq, accepted_primitiveOf]

/-- Settles O28: each of the six is accepted in the state its primitive is accepted in. -/
theorem aliasesAreTheirCommands : Obligations.AliasesAreTheirCommands := fun s len =>
  ⟨(exec_primitiveOf .sidle s).symm, (exec_primitiveOf .stx s).symm, (exec_primitiveOf (.wrPatable len) s).symm,
    (exec_primitiveOf (.wrConfig len) s).symm, (exec_primitiveOf (.wrTxfifo len) s).symm,
    (exec_primitiveOf .rdTxstatus s).symm⟩

/-! ## Header words (log entry 11) -/

/-- A header with a row of its own stands for what its mode says, with the length of its record. -/
theorem primitiveOf_decodeHeader (h len : Byte) :
    primitiveOf (decodeHeader h len) = decodeMode h (PortWord.hdr8 h len).lenField := by
  unfold decodeHeader
  split_ifs with h1 h2 h3 h4 h5 h6
  · subst h1; rfl
  · subst h2; rfl
  · subst h3; rfl
  · subst h4; rfl
  · subst h5; rfl
  · subst h6; rfl
  · rcases headerMode_cases h with hm | hm | hm | hm <;> simp [decodeMode, hm, PortWord.lenField, h6, primitiveOf]

/-- A header word is accepted, its record latched, in the state its mode's row is accepted in. -/
theorem accepted_header (h len : Byte) (s : State) :
    accepted (decode (.hdr8 h len)) s = accepted (decodeMode h (PortWord.hdr8 h len).lenField) s := by
  rw [← primitiveOf_decodeHeader, accepted_primitiveOf]; rfl

/-- A mode's row and the record with that mode in its code are accepted in the same state (R88; log entry
12 for mode `0b10`). -/
theorem accepted_decodeMode {h : Byte} {s : State} (haddr : s.cAddr = headerAddr h) (len : Byte)
    (level : Level) :
    accepted (decodeMode h len) s =
      accepted (decodeCmd (0b0#1 ++ headerMode h) (headerAddr h) len level) s := by
  rcases headerMode_cases h with hm | hm | hm | hm <;> simp [decodeMode, decodeCmd, hm]
  rw [← haddr, accepted, accepted, low6_addrOperand]; rfl

/-- A step with a header word on the port of a ready block (R25, R29). -/
theorem step_of_header {s : State} {h len : Byte} {moves : List HostMove} (hc : s.ctl = .ready)
    (hmove : s.hostIn = .issue (.hdr8 h len) :: moves) :
    step s = .next (advance s.pace (accepted (decodeMode h (PortWord.hdr8 h len).lenField)
      (latchRecord (.hdr8 h len) { s with hostIn := moves }))) := by
  rw [step_of_issue hc hmove, takeMove_of_cons hmove, exec_ready (by exact hc), accepted_header]
  rfl

/-- Settles O55: the header word's row and the record's are accepted in one state, which asks for the operation
with that header. -/
theorem headerWordIsItsCommandRecord : Obligations.HeaderWordIsItsCommandRecord := by
  intro s h len moves hc hmove
  rw [step_of_header hc hmove]
  refine ⟨?_, fun hpace => ⟨_, rfl, fun hm => ?_, fun hm => ?_⟩⟩
  · rw [step_of_issue (by exact hc) rfl, exec_ready (by exact hc), accepted_decodeMode rfl]
    rfl
  · rw [hpace]
    exact opArgs_accepted_decodeMode hm _ _
  · rw [hpace, decodeMode_of_reserved hm]
    exact ⟨rfl, rfl, rfl⟩

end Sys2Proof.Machine
end

section
/-! SUPPORT. Proofs/ReservedCodes.lean: the reserved command codes and the reserved header mode (R86, R89;
log entry 12). -/

namespace Sys2Proof.Machine

/-- `C_ILLEGAL` is left by the very next small step, with the response (R21, R89). -/
theorem tick_of_illegal {s : State} (hc : s.ctl = .illegal) (hf : s.frm = .idle) (hr : s.ret = none) :
    tick s = respond .cmdIllegal 0 .none s := by
  simp [tick_of_idle hr hf, ctlIdle, hc]

/-- A command of `C_ILLEGAL` is its acceptance and, where the pace has a small step, its answer. -/
theorem exec_reserved {i : Instr} {s : State} (hi : entryOf i = .illegal) (hc : s.ctl = .ready) :
    exec i s = .next (if s.pace = 0 then accepted i s
      else respond .cmdIllegal 0 .none (accepted i s)) := by
  obtain ⟨hfrm, hret, -⟩ := accepted_rest i s
  rw [exec_ready hc]
  cases s.pace with
  | zero => rfl
  | succ n =>
    rw [advance_succ, tick_of_illegal ((accepted_ctl i s).trans hi) hfrm hret,
      advance_of_ready (respond_ctl ..) hfrm (respond_ret ..)]
    rfl

theorem exec_reserved_answered {i : Instr} {s : State} (hi : entryOf i = .illegal) (hc : s.ctl = .ready)
    (hp : 1 ≤ s.pace) : exec i s = .next (respond .cmdIllegal 0 .none (accepted i s)) := by
  rw [exec_reserved hi hc, if_neg (by omega)]

/-- What a command of `C_ILLEGAL` latches: its code, and the address of the reserved header mode. -/
theorem accepted_reserved {i : Instr} (hi : entryOf i = .illegal) (s : State) :
    ∃ op addr, accepted i s = { acceptReserved op s with cAddr := addr } ∧
      (i = .cmdReserved010 ∨ i = .cmdReserved111 → addr = s.cAddr) := by
  cases i with
  | cmdReserved010 | cmdReserved111 => exact ⟨_, s.cAddr, rfl, fun _ => rfl⟩
  | hdrReserved addr => exact ⟨_, low6 addr, rfl, nofun⟩
  | _ => cases hi

theorem exec_reserved_accepted {i : Instr} {s : State} (hi : entryOf i = .illegal) (hc : s.ctl = .ready)
    (hp : s.pace = 0) : exec i s = .next (accepted i s) := by
  rw [exec_reserved hi hc, if_pos hp]

theorem answeredIllegal_of_accepted {i : Instr} {op : BitVec 3} (hi : entryOf i = .illegal)
    (ha : ∀ s, accepted i s = acceptReserved op s) : AnsweredIllegal i op := by
  intro s hc hp
  rw [exec_reserved_answered hi hc hp, ha]
  exact ⟨s.rbuf, s.cAddr, s.cLen, s.cLevel, s.sync, rfl⟩

theorem passesThroughIllegal_of_accepted {i : Instr} {op : BitVec 3} (hi : entryOf i = .illegal)
    (ha : ∀ s, accepted i s = acceptReserved op s) : PassesThroughIllegal i op := by
  intro s hc hp
  rw [exec_reserved_accepted hi hc hp, ha]
  exact ⟨_, rfl, rfl, rfl, rfl, rfl, rfl, rfl⟩

/-- Settles O35: both codes are accepted into `C_ILLEGAL`, whose small step answers. -/
theorem reservedCodesAreAnsweredIllegal : Obligations.ReservedCodesAreAnsweredIllegal :=
  ⟨answeredIllegal_of_accepted rfl fun _ => rfl, passesThroughIllegal_of_accepted rfl fun _ => rfl,
    answeredIllegal_of_accepted rfl fun _ => rfl, passesThroughIllegal_of_accepted rfl fun _ => rfl⟩

/-- Settles O36: the reserved header mode is answered as a command of `C_ILLEGAL`. -/
theorem reservedHeaderIsAnsweredIllegal : Obligations.ReservedHeaderIsAnsweredIllegal :=
  fun _ _ hc hp => exec_reserved_answered rfl hc hp

/-- Settles O51: neither acceptance nor the answer writes any of these. -/
theorem reservedCommandsLeaveTheRest : Obligations.ReservedCommandsLeaveTheRest := by
  intro i s t addr hi hc h
  have hentry : entryOf i = .illegal := by rcases hi with rfl | rfl | rfl <;> rfl
  obtain ⟨op, a, haccepted, haddr⟩ := accepted_reserved hentry s
  rw [exec_reserved hentry hc, haccepted] at h
  obtain rfl := Host.Outcome.next.inj h
  split_ifs <;>
    exact ⟨rfl, rfl, rfl, rfl, rfl, rfl, rfl, rfl, rfl, rfl, rfl, rfl, rfl, rfl, haddr, rfl, fun _ => rfl⟩

end Sys2Proof.Machine
end

section
/-! SUPPORT. Proofs/HeadersSent.lean: the header bytes a command in progress has put on the bus, along every
run (R83, R84, R130, R135). -/

namespace Sys2Proof.Machine

/-! ## The first byte of each window (R84) -/

/-- One event that keeps the window discipline: `opened` is where the window still lacks its header. -/
theorem headersFrom_cons_of_next {w v : Window} {e : Event} (h : Window.next w e = some v) :
    ∃ bytes, ∀ es, headersFrom (w == .opened) (e :: es) = bytes ++ headersFrom (v == .opened) es := by
  cases e with
  | x out r | xf out =>
    cases w <;> cases h
    · exact ⟨[out], fun _ => rfl⟩
    · exact ⟨[], fun _ => rfl⟩
  | csAssert | csDeassert | s | dly | rsp => cases w <;> cases h <;> exact ⟨[], fun _ => rfl⟩

theorem headersFrom_append {w v : Window} {es : List Event} (h : Window.run w es = some v)
    (fs : List Event) :
    headersFrom (w == .opened) (es ++ fs) =
      headersFrom (w == .opened) es ++ headersFrom (v == .opened) fs := by
  induction es generalizing w with
  | nil => cases h; rfl
  | cons e es ih =>
    obtain ⟨u, hu, hrun⟩ := Option.bind_eq_some_iff.1 h
    obtain ⟨bytes, hbytes⟩ := headersFrom_cons_of_next hu
    rw [List.cons_append, hbytes, hbytes, ih hrun, List.append_assoc]

theorem Window.run_append (w : Window) (es fs : List Event) :
    Window.run w (es ++ fs) = (Window.run w es).bind fun v => Window.run v fs := by
  induction es generalizing w with
  | nil => rfl
  | cons e es ih =>
    rw [List.cons_append, Window.run, Window.run, Option.bind_assoc]
    exact congrArg _ (funext ih)

/-! ## The headers of the table (R83) -/

@[simp] theorem frame_idleAddress :
    frame (addrOperand Config.idleAddress) Config.flagStrobe = 0x36 := by decide

@[simp] theorem frame_txAddress :
    frame (addrOperand Config.txAddress) Config.flagStrobe = 0x35 := by decide

@[simp] theorem frame_powerTableAddress :
    frame (addrOperand Config.powerTableAddress) Config.writeBurstFlag = 0x7E := by decide

@[simp] theorem frame_configBase :
    frame (addrOperand Config.configBase) Config.writeBurstFlag = 0x40 := by decide

@[simp] theorem frame_fifoTxAddress :
    frame (addrOperand Config.fifoTxAddress) Config.writeBurstFlag = 0x7F := by decide

@[simp] theorem frame_txStatusAddress :
    frame (addrOperand Config.txStatusAddress) Config.readBurstFlag = 0xFA := by decide

/-! ## The headers sent so far -/

/-- The headers of the sub-steps before that of a controller's state (R130, R134). -/
def headersBefore : Ctl → List Byte
  | .ready | .prim | .initPa | .txSidle | .wait | .illegal => []
  | .initCfg => [0x7E]
  | .txFifo => [0x36]
  | .txStx => [0x36, 0x7F]
  | .txWait | .txStatus => [0x36, 0x7F, 0x35]

/-- The header of the operation in progress has been exchanged, or the operation has returned. -/
def headerOut (s : State) : Bool :=
  s.frm == .data || s.frm == .desel || (s.ret.isSome && s.ctl.onBus)

/-- The headers a command in progress has put on the bus. -/
def headersSent (s : State) : List Byte := headersBefore s.ctl ++ if headerOut s then [s.hdr] else []

theorem headersSent_of_out {s : State} (h : headerOut s = true) :
    headersSent s = headersBefore s.ctl ++ [s.hdr] := by
  simp [headersSent, h]

theorem headersSent_of_not_out {s : State} (h : headerOut s = false) :
    headersSent s = headersBefore s.ctl := by
  simp [headersSent, h]

theorem headersSent_congr {s t : State} (hctl : t.ctl = s.ctl) (hhdr : t.hdr = s.hdr)
    (hout : headerOut t = headerOut s) : headersSent t = headersSent s := by
  rw [headersSent, headersSent, hctl, hhdr, hout]

theorem headerOut_of_exchanged {s : State} (h : s.frm = .data ∨ s.frm = .desel) : headerOut s = true := by
  rcases h with h | h <;> simp [headerOut, h]

/-- Between operations no header is out. -/
theorem headerOut_of_idle {s : State} (hf : s.frm ≠ .data ∧ s.frm ≠ .desel)
    (h : s.ret = none ∨ s.ctl.onBus = false) : headerOut s = false := by
  rcases h with h | h <;> simp [headerOut, hf, h]

/-- The events from `s` to `t` bring the headers sent from those of `s` to those of `t`. -/
def HeadersStep (s t : State) : Prop :=
  ∃ es, t.trace = s.trace ++ es ∧
    headersSent t = headersSent s ++ headersFrom (windowOf s == .opened) es

theorem HeadersStep.of_same {s t : State} {es : List Event} (ht : t.trace = s.trace ++ es)
    (hes : headersFrom (windowOf s == .opened) es = []) (hs : headersSent t = headersSent s) :
    HeadersStep s t :=
  ⟨es, ht, by rw [hes, hs, List.append_nil]⟩

/-! ## The framer's small steps (R110) -/

theorem headersStep_frmSel {s : State} (hr : s.ret = none) (hf : s.frm = .sel) :
    HeadersStep s (frmSel s) :=
  .of_same (es := [.csAssert]) rfl rfl <| headersSent_congr rfl rfl <|
    (headerOut_of_idle (s := frmSel s) ⟨nofun, nofun⟩ (.inl hr)).trans
      (headerOut_of_idle (by simp [hf]) (.inl hr)).symm

/-- The exchange of the header, good or faulted, is the first of its window. -/
theorem headersStep_of_header {s t : State} {e : Event} (hr : s.ret = none) (hf : s.frm = .hdr)
    (he : headersFrom true [e] = [s.hdr]) (ht : t.trace = s.trace ++ [e]) (hctl : t.ctl = s.ctl)
    (hhdr : t.hdr = s.hdr) (hfrm : t.frm = .data ∨ t.frm = .desel) : HeadersStep s t := by
  refine ⟨[e], ht, ?_⟩
  have hopen : (windowOf s == .opened) = true := by simp [windowOf, hf]
  rw [headersSent_of_not_out (headerOut_of_idle (by simp [hf]) (.inl hr)), hopen, he,
    headersSent_of_out (headerOut_of_exchanged hfrm), hctl, hhdr]

theorem headersStep_frmHdr {s : State} (hr : s.ret = none) (hf : s.frm = .hdr) :
    HeadersStep s (frmHdr s) := by
  obtain ⟨r, b, d, ht⟩ | ⟨b, d, ht⟩ := frmHdr_eq s <;> rw [ht]
  · exact headersStep_of_header hr hf rfl rfl rfl rfl (phase_after_ok s.cnt)
  · exact headersStep_of_header hr hf rfl rfl rfl rfl (.inr rfl)

/-- A later exchange of the window is no header. -/
theorem headersStep_of_data {s t : State} {e : Event} (hf : s.frm = .data)
    (he : headersFrom false [e] = []) (ht : t.trace = s.trace ++ [e]) (hctl : t.ctl = s.ctl)
    (hhdr : t.hdr = s.hdr) (hfrm : t.frm = .data ∨ t.frm = .desel) : HeadersStep s t := by
  have hinside : (windowOf s == .opened) = false := by simp [windowOf, hf]
  exact .of_same ht (by rw [hinside, he]) <| headersSent_congr hctl hhdr <|
    (headerOut_of_exchanged hfrm).trans (headerOut_of_exchanged (.inl hf)).symm

theorem headersStep_frmData {s : State} (hf : s.frm = .data) : HeadersStep s (frmData s) := by
  obtain ⟨out, r, b, d, m, ht, -, -⟩ | ⟨out, b, d, ht⟩ := frmData_eq s <;> rw [ht]
  · exact headersStep_of_data hf rfl rfl rfl rfl (phase_after_ok (s.cnt - 1))
  · exact headersStep_of_data hf rfl rfl rfl rfl (.inr rfl)

/-- The operation returns, its header out. -/
theorem headersStep_frmDesel {s : State} (hbus : s.ctl.onBus = true) (hf : s.frm = .desel) :
    HeadersStep s (frmDesel s) :=
  .of_same (es := [.csDeassert]) rfl rfl <| headersSent_congr rfl rfl <|
    .trans (by simp [headerOut, frmDesel, hbus]) (headerOut_of_exchanged (.inr hf)).symm

/-! ## The controller's small steps -/

/-- A wait's small step is no exchange, and a wait has no header of its own (R57, R152, R156). -/
theorem headersStep_of_wait {s t : State} {e : Event} (hf : s.frm = .idle)
    (hw : s.ctl = .wait ∨ s.ctl = .txWait) (he : ∀ fresh, headersFrom fresh [e] = [])
    (ht : t.trace = s.trace ++ [e]) (hctl : t.ctl = s.ctl) (hhdr : t.hdr = s.hdr)
    (hfrm : t.frm = s.frm) : HeadersStep s t := by
  have hbus : s.ctl.onBus = false := by rcases hw with h | h <;> rw [h] <;> rfl
  exact .of_same ht (he _) <| headersSent_congr hctl hhdr <|
    (headerOut_of_idle (by simp [hfrm, hf]) (.inr (hctl ▸ hbus))).trans
      (headerOut_of_idle (by simp [hf]) (.inr hbus)).symm

theorem headersStep_ctlIdle {s : State} (hr : s.ret = none) (hf : s.frm = .idle)
    (hbusy : (ctlIdle s).ctl ≠ .ready) : HeadersStep s (ctlIdle s) := by
  obtain ⟨-, ht⟩ | ⟨hc, ht⟩ | ⟨hc, -, ht⟩ | ⟨o, -, -, ht⟩ | ⟨-, -, ht⟩ := ctlIdle_cases s
  · exact absurd (ht ▸ rfl) hbusy
  · have hw : s.ctl = .wait ∨ s.ctl = .txWait := hc.imp_right And.left
    rw [ht]
    obtain ⟨v, p, ff0, d, ⟨-, ht⟩ | ⟨-, -, ht⟩ | ⟨n, -, -, ht⟩⟩ := pollSample_eq s <;> rw [ht] <;>
      exact headersStep_of_wait (e := .s v) hf hw (fun _ => rfl) rfl rfl rfl rfl
  · exact ht ▸ headersStep_of_wait (e := .dly) hf (.inr hc) (fun _ => rfl) rfl rfl rfl rfl
  · rw [ht]
    refine .of_same (es := []) (by simp) rfl ?_
    exact (headersSent_of_not_out (headerOut_of_idle (s := loadOp o s) (by simp) (.inl hr))).trans
      (headersSent_of_not_out (headerOut_of_idle (by simp [hf]) (.inl hr))).symm
  · rw [ht]; exact .of_same (es := []) (by simp) rfl rfl

/-- A good operation has sent its header (R110). -/
theorem State.Inv.header_returned {s : State} (h : s.Inv) (hr : s.ret = some .ok)
    (hbus : s.ctl.onBus = true) {o : OpArgs} (ho : opArgs s = some o) :
    headersSent s = headersBefore s.ctl ++ [frame (addrOperand o.addr) o.flag] := by
  obtain ⟨o', ho', hop, -⟩ := h.opDone hr hbus
  obtain rfl : o' = o := by simpa [ho] using ho'.symm
  rw [headersSent_of_out (by simp [headerOut, hr, hbus]), hop.hdr]

/-- A wait has no header of its own. -/
theorem State.Inv.no_header_returned {s : State} (h : s.Inv) (hr : s.ret = some .ok)
    (hbus : s.ctl.onBus = false) : headersSent s = headersBefore s.ctl :=
  headersSent_of_not_out (headerOut_of_idle (by simp [h.idle_of_ret hr]) (.inr hbus))

/-- The next sub-step of a sequence has the headers sent before it (R130, R134). -/
theorem State.Inv.headersBefore_next {s : State} (h : s.Inv) (hr : s.ret = some .ok) {c : Ctl}
    (hc : c ≠ .ready) (hmem : c ∈ s.ctl.leftTo) : headersBefore c = headersSent s := by
  cases hs : s.ctl <;> simp [hs, Ctl.leftTo, hc] at hmem <;> subst hmem
  case initPa | txSidle | txFifo | txStx =>
    rw [h.header_returned hr (by rw [hs]; rfl) (by simp only [opArgs, hs]; rfl), hs]
    simp [headersBefore, strobeArgs, wburstArgs]
  case txWait =>
    rw [h.no_header_returned hr (by rw [hs]; rfl), hs]
    rfl

theorem headersStep_onReturn {s : State} {r : Ret} (h : s.Inv) (hr : s.ret = some r)
    (hbusy : (onReturn r s).ctl ≠ .ready) : HeadersStep s (onReturn r s) := by
  cases r with
  | busFault | timeout => exact absurd rfl hbusy
  | ok =>
    rw [onReturn_ok] at hbusy ⊢
    obtain ⟨hc, -⟩ | ⟨c, tgt, n, hc, hmem, ht, -⟩ | ⟨n, info, -, ht, -⟩ | ⟨-, ht⟩ :=
      afterOk_cases { s with ret := none }
    · have hfit := h.retLegal .ok hr
      rcases hc with hc | hc <;> simp [show s.ctl = _ from hc, retFits, Ctl.onBus] at hfit
    · rw [ht]
      refine .of_same (es := []) (by simp) rfl ?_
      rw [← h.headersBefore_next hr hc hmem,
        headersSent_of_not_out (headerOut_of_idle (by simp [h.idle_of_ret hr]) (.inl rfl))]
    · exact absurd (ht ▸ rfl) hbusy
    · obtain ⟨k, -, ha⟩ := answered_txStatusDone { s with ret := none }
      exact absurd (ht ▸ ha.ctl) hbusy

/-- Every small step that does not answer the command keeps account of the headers. -/
theorem headersStep_tick {s : State} (h : s.Inv) (hbusy : (tick s).ctl ≠ .ready) :
    HeadersStep s (tick s) := by
  obtain ⟨r, hr, ht⟩ | ⟨hr, hf, ht⟩ | ⟨hr, hf, ht⟩ | ⟨hr, hf, ht⟩ | ⟨-, hf, ht⟩ | ⟨-, hf, ht⟩ :=
    tick_cases s <;> rw [ht] at hbusy ⊢
  · exact headersStep_onReturn h hr hbusy
  · exact headersStep_ctlIdle hr hf hbusy
  · exact headersStep_frmSel hr hf
  · exact headersStep_frmHdr hr hf
  · exact headersStep_frmData hf
  · exact headersStep_frmDesel (h.framer (by simp [hf])).1 hf

/-! ## Runs of a command -/

/-- The header bytes of the events since `s` are those a command in progress in `t` has sent. -/
def HeadersFollow (s t : State) : Prop :=
  ∃ es, t.trace = s.trace ++ es ∧ busHeaders es = headersSent t

theorem HeadersFollow.accepted (i : Instr) (s : State) : HeadersFollow s (accepted i s) := by
  obtain ⟨hf, hr, -, htrace, -⟩ := accepted_rest i s
  refine ⟨[], by simp [htrace], ?_⟩
  rw [headersSent_of_not_out (headerOut_of_idle (by simp [hf]) (.inl hr)), accepted_ctl]
  cases i <;> rfl

/-- The events since a state outside a window stand where the framer stands. -/
theorem State.Inv.window_since {s t : State} (ht : t.Inv) (hs : Window.run .outside s.trace = some .outside)
    {es : List Event} (hes : t.trace = s.trace ++ es) : Window.run .outside es = some (windowOf t) := by
  have := ht.windows
  rwa [hes, Window.run_append, hs] at this

theorem HeadersFollow.tick {s t : State} (h : HeadersFollow s t)
    (hs : Window.run .outside s.trace = some .outside) (ht : t.Inv) (hbusy : (tick t).ctl ≠ .ready) :
    HeadersFollow s (tick t) := by
  obtain ⟨es, hes, hsent⟩ := h
  obtain ⟨fs, hfs, hstep⟩ := headersStep_tick ht hbusy
  refine ⟨es ++ fs, by rw [hfs, hes, List.append_assoc], ?_⟩
  rw [hstep, ← hsent]
  exact headersFrom_append (ht.window_since hs hes) fs

/-- A primitive's operation has the header the encodings give the instruction (R83, R92). -/
theorem headers_of_prim {i : Instr} (hi : entryOf i = .prim) {s : State} {o : OpArgs}
    (ho : opArgs (accepted i s) = some o) : i.headers = [frame (addrOperand o.addr) o.flag] := by
  cases i <;> cases hi <;> cases ho
  case strobe | wburst | rburst => exact congrArg (fun b => [b]) (frame_low6 _ (by decide)).symm
  case sidle => exact congrArg (fun b => [b]) frame_idleAddress.symm
  case stx => exact congrArg (fun b => [b]) frame_txAddress.symm
  case wrPatable => exact congrArg (fun b => [b]) frame_powerTableAddress.symm
  case wrConfig => exact congrArg (fun b => [b]) frame_configBase.symm
  case wrTxfifo => exact congrArg (fun b => [b]) frame_fifoTxAddress.symm
  case rdTxstatus => exact congrArg (fun b => [b]) frame_txStatusAddress.symm

theorem headers_of_initPa {i : Instr} (hi : entryOf i = .initPa) : i.headers = [0x7E, 0x40] := by
  cases i <;> cases hi; rfl

theorem headers_of_txSidle {i : Instr} (hi : entryOf i = .txSidle) :
    i.headers = [0x36, 0x7F, 0x35, 0xFA] := by
  cases i <;> cases hi; rfl

theorem headers_of_wait {i : Instr} (hi : entryOf i = .wait) : i.headers = [] := by
  cases i <;> cases hi; rfl

/-- A command about to end well has sent its own headers. -/
theorem InFlight.headersSent_eq {i : Instr} {s t : State} (h : InFlight i t) (ht : t.Inv)
    (hk : SameCommand (accepted i s) t) (hr : t.ret = some .ok) {k : RspKind}
    (hends : endsWith (some .ok) t.ctl k = true) : headersSent t = i.headers := by
  have hstage := h.stage
  cases hc : t.ctl <;> rw [hc] at hends hstage
  case prim =>
    have hentry : (accepted i s).ctl = t.ctl := by rw [accepted_ctl, ← hstage, hc]; rfl
    have hargs : opArgs (accepted i s) = opArgs t := by
      simp only [opArgs, hentry, hc, primArgs, hk.cOp, hk.cAddr, hk.cLen]
    obtain ⟨o, ho⟩ := h.operation (by rw [hc]; rfl)
    rw [ht.header_returned hr (by rw [hc]; rfl) ho, hc, headers_of_prim hstage.symm (hargs.trans ho)]
    rfl
  case initCfg =>
    rw [ht.header_returned hr (by rw [hc]; rfl) (by simp only [opArgs, hc]; rfl), hc,
      headers_of_initPa hstage.symm]
    simp [headersBefore, wburstArgs]
  case txStatus =>
    rw [ht.header_returned hr (by rw [hc]; rfl) (by simp only [opArgs, hc]; rfl), hc,
      headers_of_txSidle hstage.symm]
    simp [headersBefore, rburstArgs]
  case wait =>
    rw [ht.no_header_returned hr (by rw [hc]; rfl), hc, headers_of_wait hstage.symm]
    rfl
  all_goals cases hends

/-- The block is at rest, and if it answered well its events since `s` have the instruction's headers. -/
structure SentItsHeaders (i : Instr) (s t : State) : Prop where
  ctl : t.ctl = .ready
  frm : t.frm = .idle
  ret : t.ret = none
  headers : t.rspCode = RspKind.code .ok ∨ t.rspCode = RspKind.code .txIncomplete →
    ∃ es, t.trace = s.trace ++ es ∧ busHeaders es = i.headers

theorem RspKind.code_inj {j k : RspKind} (h : j.code = k.code) : j = k := by
  revert h; cases j <;> cases k <;> decide

/-- A good answer follows a returned `Ok` (R116, R130, R136, R154). -/
theorem ret_of_good_end {r : Option Ret} {c : Ctl} {k : RspKind} (h : endsWith r c k = true)
    (hk : k = .ok ∨ k = .txIncomplete) : r = some .ok := by
  rcases hk with rfl | rfl <;> cases r with
  | none => simp [endsWith] at h
  | some r => cases r <;> simp_all [endsWith]

/-- The small step that answers leaves the events with the instruction's headers. -/
theorem InFlight.sentItsHeaders {i : Instr} {s t : State} (h : InFlight i t) (ht : t.Inv)
    (hk : SameCommand (accepted i s) t) (hfollow : HeadersFollow s t)
    (hs : Window.run .outside s.trace = some .outside) {k : RspKind}
    (hends : endsWith t.ret t.ctl k = true) (ha : Answered k t (tick t)) :
    SentItsHeaders i s (tick t) := by
  refine ⟨ha.ctl, ha.frm.trans (h.idle_of_endsWith hends), ha.ret, fun hcode => ?_⟩
  have hgood : k = .ok ∨ k = .txIncomplete := by
    rw [ha.rspCode] at hcode
    exact hcode.imp RspKind.code_inj RspKind.code_inj
  have hr := ret_of_good_end hends hgood
  obtain ⟨info, htrace⟩ := ha.event
  obtain ⟨es, hes, hsent⟩ := hfollow
  refine ⟨es ++ [.rsp k info], by rw [htrace, hes, List.append_assoc], ?_⟩
  rw [← h.headersSent_eq ht hk hr (hr ▸ hends), ← hsent]
  exact (headersFrom_append (ht.window_since hs hes) _).trans (List.append_nil _)

/-- Acceptance outside `step` keeps the invariant too: the latches are the record. -/
theorem inv_accepted_alone {s : State} (h : s.Inv) (hc : s.ctl = .ready) (i : Instr) :
    (accepted i s).Inv :=
  inv_accepted h hc i (.cmd3 s.cOp s.cAddr s.cLen s.cLevel)

/-- After any number of small steps an accepted command is still in progress, its headers in account, or it
has ended. -/
theorem headersFollow_or_sent {s : State} (h : s.Inv) (hc : s.ctl = .ready) (i : Instr) (n : Nat) :
    (InFlight i (advance n (accepted i s)) ∧ HeadersFollow s (advance n (accepted i s))) ∨
      SentItsHeaders i s (advance n (accepted i s)) := by
  have hs := h.outside (h.idle hc).1
  induction n with
  | zero => exact .inl ⟨inFlight_accepted i s, .accepted i s⟩
  | succ n ih =>
    have hinv : (advance n (accepted i s)).Inv :=
      advance_keeps (P := State.Inv) (fun _ => inv_tick) n (inv_accepted_alone h hc i)
    rw [advance_succ']
    obtain ⟨hrun, hfollow⟩ | hdone := ih
    · obtain hsilent | ⟨k, hends, ha⟩ := tick_silentOrEnds (advance n (accepted i s))
      · have hbusy := mt hsilent.ready hrun.not_ready
        exact .inl ⟨(progress_tick hrun hbusy).inFlight, hfollow.tick hs hinv hbusy⟩
      · exact .inr (hrun.sentItsHeaders hinv (sameCommand_advance n _) hfollow hs hends ha)
    · exact .inr ((tick_of_ready hdone.ctl hdone.frm hdone.ret).symm ▸ hdone)

/-- Settles O39: the headers are accounted for along the run, and the small step that answers well ends it. -/
theorem goodCommandsSendTheirHeaders : Obligations.GoodCommandsSendTheirHeaders := by
  intro i s t h hc hexec hready hgood
  rw [exec_ready hc] at hexec
  obtain rfl := Host.Outcome.next.inj hexec
  obtain ⟨hrun, -⟩ | hdone := headersFollow_or_sent h hc i s.pace
  · exact absurd hready hrun.not_ready
  · exact hdone.headers hgood

end Sys2Proof.Machine
end

section
/-! SUPPORT. Proofs/GoodRuns.lean: the commands with every exchange answered `ok` and the line in time, each run
to its response (R111 to R113, R130, R134, R154). -/

namespace Sys2Proof.Machine

/-! ## A run to the response -/

/-- An instruction whose small steps end at rest within the pace. -/
theorem exec_of_run {i : Instr} {s t : State} {k : Nat} (hc : s.ctl = .ready) (hk : k ≤ s.pace)
    (h : advance k (accepted i s) = t) (hready : t.ctl = .ready) (hf : t.frm = .idle) (hr : t.ret = none) :
    exec i s = .next t := by
  rw [exec_ready hc, ← Nat.add_sub_of_le hk, advance_add, h, advance_of_ready hready hf hr]

theorem advance_trans {s t u : State} {m n : Nat} (h : advance m s = t) (k : advance n t = u) :
    advance (m + n) s = u := by
  rw [advance_add, h, k]

/-- After a sub-step that returns `Ok` the controller takes the value. -/
theorem advance_then_ok {s t : State} {k : Nat} (h : advance k s = t) (hr : t.ret = some .ok) :
    advance (k + 1) s = afterOk { t with ret := none } := by
  rw [advance_succ', h, tick_of_ret hr, onReturn_ok]

/-! ## The primitives (R111 to R113, R116) -/

theorem primDone_of_send {s : State} (h : s.cOp ≠ 0b011#3) : primDone s = respond .ok 0 .none s :=
  if_neg h

theorem primDone_of_read {s : State} (h : s.cOp = 0b011#3) :
    primDone s = respond .ok s.cLen (.data (Memory.firstBytes s.rbuf s.cLen.toNat)) s :=
  if_pos h

theorem strobeRuns {i : Instr} {a : Addr} (hi : ∀ s, accepted i s = acceptStrobe a s) :
    StrobeRuns i a := by
  intro s r answers hc hp hb
  refine ⟨s.cLen, s.cLevel, s.sync, exec_of_run (k := 4 + 1) hc hp ?_ rfl rfl rfl⟩
  have hop := advance_noData_ok (s := acceptStrobe a s) (o := strobeArgs a) rfl rfl rfl rfl hb
  rw [hi, advance_then_ok hop rfl, afterOk_of_prim rfl,
    primDone_of_send (show 0b000#3 ≠ 0b011#3 by decide)]
  simp only [respond, emit, List.append_assoc]
  rfl

theorem wburstRuns {i : Instr} {a : Addr} {len : Byte} (hi : ∀ s, accepted i s = acceptWburst a len s) :
    WburstRuns i a len := by
  intro s r data received answers hc hp hdata hheld hreceived hb
  refine ⟨s.cLevel, s.sync, exec_of_run (k := data.length + 4 + 1) hc (by omega) ?_ rfl rfl rfl⟩
  have hop := advance_write_ok (s := acceptWburst a len s) (o := wburstArgs a len) rfl rfl rfl rfl
    hdata.symm (by rw [hreceived, hdata]) hheld hb
  rw [hi, advance_then_ok hop rfl, afterOk_of_prim rfl,
    primDone_of_send (show 0b001#3 ≠ 0b011#3 by decide)]
  rfl

theorem rburstRuns {i : Instr} {a : Addr} {len : Byte} (hi : ∀ s, accepted i s = acceptRburst a len s) :
    RburstRuns i a len := by
  intro s r received answers hc hp hreceived hb
  have hread := Memory.read_writeFrom received s.rbuf 0
  have hop := advance_read_ok (s := acceptRburst a len s) (o := rburstArgs a len) rfl rfl rfl rfl
    hreceived.symm hb
  refine ⟨_, Memory.writeFrom s.rbuf 0 received, s.cLevel, s.sync,
    exec_of_run (k := received.length + 4 + 1) hc (by omega) ?_ rfl rfl rfl, rfl, fun j hj => ?_,
    fun j hj => ?_⟩
  · rw [hi, advance_then_ok hop rfl, afterOk_of_prim rfl, primDone_of_read rfl]
    have hbytes : Memory.firstBytes (Memory.writeFrom s.rbuf 0 received) len.toNat = received := by
      rw [← hreceived, Memory.firstBytes_writeFrom]
    simp only [respond, emit, acceptRburst, accept, hbytes, hreceived]
    rfl
  · have hj' : j < len.toNat := by omega
    simp [hread, hj, hostReadRbuf, State.ready, hj']
  · simp [hostReadRbuf, hj]

/-! ## WAIT (R154) -/

theorem mismatchesCounted_eq (limit : PollLimit) (k : Nat) :
    countedFrom limit 0 k = mismatchesCounted limit k := by
  cases limit <;> simp [countedFrom, mismatchesCounted]

theorem waitMatches : WaitMatches := by
  intro s level k levels hc hp hbound hpin
  obtain ⟨ff0, d, hwait⟩ := advance_match (s := acceptWait level s) rfl rfl
    (fun n hn => by simpa [acceptWait, startWait] using hbound n hn) hpin
  refine ⟨s.rbuf, s.cAddr, s.cLen, ⟨ff0, level⟩, d, exec_of_run (k := k + 1 + 1) hc hp ?_ rfl rfl rfl⟩
  rw [show accepted (.wait level) s = acceptWait level s from rfl, advance_then_ok hwait rfl,
    ← mismatchesCounted_eq]
  rfl

/-! ## INIT (R130) -/

theorem afterOk_of_initPa {s : State} (h : s.ctl = .initPa) : afterOk s = { s with ctl := .initCfg } := by
  simp [afterOk, h]

theorem afterOk_of_initCfg {s : State} (h : s.ctl = .initCfg) : afterOk s = respond .ok 0 .none s := by
  simp [afterOk, h]

/-- The power table, with every exchange answered `ok` (R131). -/
theorem advance_initPa {s : State} {r : Byte} {received : List Byte} {answers : List BusAnswer}
    (hr : s.ret = none) (hf : s.frm = .idle) (hc : s.ctl = .initPa) (hl : received.length = 8)
    (hb : s.busIn = .ok r :: (oks received ++ answers)) :
    advance 13 s =
      { s with
        ctl := .initCfg, hdr := 0x7E, cnt := 0, idx := 8, dir := .wr, ferr := false, cs := false
        busIn := answers
        trace := s.trace ++ okWindow 0x7E r (List.replicate 8 s.pa0) received } := by
  have hop := advance_write_ok (o := wburstArgs Config.powerTableAddress Config.paLen)
    (data := List.replicate 8 s.pa0) hr hf (by simp [opArgs, hc]) rfl rfl (by simpa using hl)
    (fun j hj => by rw [List.getElem_replicate]; simp [srcAt, hc]) hb
  rw [List.length_replicate] at hop
  rw [advance_then_ok hop rfl, afterOk_of_initPa (by exact hc)]
  simp [wburstArgs, Config.paLen, hf, hr]

/-- The configuration table, with every exchange answered `ok`, and INIT's response (R132). -/
theorem advance_initCfg {s : State} {r : Byte} {received : List Byte} {answers : List BusAnswer}
    (hr : s.ret = none) (hf : s.frm = .idle) (hc : s.ctl = .initCfg) (hl : received.length = 47)
    (hb : s.busIn = .ok r :: (oks received ++ answers)) :
    advance 52 s =
      respond .ok 0 .none
        { s with
          hdr := 0x40, cnt := 0, idx := 47, dir := .wr, ferr := false, cs := false, busIn := answers
          trace := s.trace ++ okWindow 0x40 r s.cfg.toList received } := by
  have hop := advance_write_ok (o := wburstArgs Config.configBase Config.cfgLen)
    (data := s.cfg.toList) hr hf (by simp [opArgs, hc]) rfl (by simp; rfl) (by simpa using hl)
    (fun j hj => by simp [srcAt, hc]) hb
  rw [Vector.length_toList] at hop
  rw [advance_then_ok hop rfl, afterOk_of_initCfg (by exact hc)]
  simp [wburstArgs, Config.cfgLen, hf, hr]

theorem initRuns : InitRuns := by
  intro s r0 r1 ps cs answers hc hp hps hcs hb
  refine ⟨s.cAddr, s.cLen, s.cLevel, s.sync, exec_of_run (k := 13 + 52) hc hp ?_ rfl rfl rfl⟩
  exact advance_trans (advance_initPa (s := acceptInit s) rfl rfl rfl hps hb)
    (advance_initCfg rfl rfl rfl hcs rfl)

/-! ## TX (R134) -/

theorem afterOk_of_txSidle {s : State} (h : s.ctl = .txSidle) : afterOk s = { s with ctl := .txFifo } := by
  simp [afterOk, h]

theorem afterOk_of_txFifo {s : State} (h : s.ctl = .txFifo) : afterOk s = { s with ctl := .txStx } := by
  simp [afterOk, h]

theorem afterOk_of_txWait {s : State} (h : s.ctl = .txWait) : afterOk s = { s with ctl := .txStatus } := by
  simp [afterOk, h]

/-- TX step 1, its exchange answered `ok`. -/
theorem advance_txSidle {s : State} {r : Byte} {answers : List BusAnswer} (hr : s.ret = none)
    (hf : s.frm = .idle) (hc : s.ctl = .txSidle) (hb : s.busIn = .ok r :: answers) :
    advance 5 s =
      { s with
        ctl := .txFifo, hdr := 0x36, cnt := 0, idx := 0, dir := .none, ferr := false, cs := false
        busIn := answers, trace := s.trace ++ okWindow 0x36 r [] [] } := by
  have hop := advance_noData_ok (o := strobeArgs Config.idleAddress) hr hf (by simp [opArgs, hc]) rfl hb
  rw [advance_then_ok hop rfl, afterOk_of_txSidle (by exact hc)]
  simp [strobeArgs, hf, hr]

/-- TX step 2, every exchange answered `ok`. -/
theorem advance_txFifo {s : State} {r : Byte} {data received : List Byte} {answers : List BusAnswer}
    (hr : s.ret = none) (hf : s.frm = .idle) (hc : s.ctl = .txFifo) (hlen : s.cLen.toNat = data.length)
    (hl : received.length = data.length) (hheld : dbufHolds s data)
    (hb : s.busIn = .ok r :: (oks received ++ answers)) :
    advance (data.length + 5) s =
      { s with
        ctl := .txStx, hdr := 0x7F, cnt := 0, idx := s.cLen, dir := .wr, ferr := false, cs := false
        busIn := answers, trace := s.trace ++ okWindow 0x7F r data received } := by
  have hop := advance_write_ok (o := wburstArgs Config.fifoTxAddress s.cLen) hr hf (by simp [opArgs, hc])
    rfl hlen hl (fun j hj => by simpa [srcAt, hc] using hheld j hj) hb
  rw [advance_then_ok hop rfl, afterOk_of_txFifo (by exact hc)]
  simp [wburstArgs, hf, hr]

/-- TX step 3, its exchange answered `ok`; the completion wait is entered. -/
theorem advance_txStx {s : State} {r : Byte} {answers : List BusAnswer} (hr : s.ret = none)
    (hf : s.frm = .idle) (hc : s.ctl = .txStx) (hb : s.busIn = .ok r :: answers) :
    advance 5 s =
      enterTxWait
        { s with
          hdr := 0x35, cnt := 0, idx := 0, dir := .none, ferr := false, cs := false
          busIn := answers, trace := s.trace ++ okWindow 0x35 r [] [] } := by
  have hop := advance_noData_ok (o := strobeArgs Config.txAddress) hr hf (by simp [opArgs, hc]) rfl hb
  rw [advance_then_ok hop rfl, afterOk_of_txStx (by exact hc)]
  simp [strobeArgs, hf, hr]

theorem enterTxWait_of_signalPoll {s : State} (h : s.straps.policy = .signalPoll) :
    enterTxWait s = startWait s.straps.idleLevel { s with ctl := .txWait } := by
  simp [enterTxWait, h]

/-- TX step 4, polled: the line is idle after `k` busy samples, fewer than the bound (R152, R155). -/
theorem advance_enterTxWait {s : State} {k : Nat} {levels : List Level} (hr : s.ret = none)
    (hf : s.frm = .idle) (hpol : s.straps.policy = .signalPoll)
    (hn : ∀ n, pollBound s.straps.pollLimit = some n → k < n)
    (hpin : s.pinIn = List.replicate k (!s.straps.idleLevel) ++ s.straps.idleLevel :: levels) :
    ∃ sy d, advance (k + 2) (enterTxWait s) =
      { s with
        ctl := .txStatus, pinIn := levels, sync := sy, draws := d
        tgtLevel := s.straps.idleLevel, pollCnt := mismatchesCounted s.straps.pollLimit k
        trace := s.trace ++ samples (List.replicate k (!s.straps.idleLevel) ++ [s.straps.idleLevel]) } := by
  rw [enterTxWait_of_signalPoll hpol]
  obtain ⟨ff0, d, hwait⟩ := advance_match (s := startWait s.straps.idleLevel { s with ctl := .txWait })
    (by simp [polling, startWait, hr, hpol]) hf (fun n h => by simpa [startWait] using hn n h) hpin
  refine ⟨⟨ff0, s.straps.idleLevel⟩, d, ?_⟩
  rw [advance_then_ok hwait rfl, afterOk_of_txWait rfl, ← mismatchesCounted_eq]
  simp [startWait, hr]

/-- The masked byte on 7 bits is zero where it is on 8 (R136). -/
theorem txResult_maskStatus (status : Byte) : txResult (maskStatus status) = txAnswer status := by
  have hle : (status &&& 0x7F#8).toNat ≤ 127 := by
    rw [BitVec.toNat_and]; exact Nat.and_le_right
  have hzero : maskStatus status = 0 ↔ status &&& 0x7F#8 = 0 := by
    simp only [maskStatus, Config.txStatusMask]
    generalize status &&& 0x7F#8 = masked at hle ⊢
    bv_omega
  exact if_congr hzero rfl rfl

/-- TX steps 5 and 6, both exchanges answered `ok` (R136). -/
theorem advance_txStatus {s : State} {r status : Byte} {answers : List BusAnswer} (hr : s.ret = none)
    (hf : s.frm = .idle) (hc : s.ctl = .txStatus) (hb : s.busIn = .ok r :: .ok status :: answers) :
    advance 6 s =
      respond (txAnswer status) 1 (.txstat (maskStatus status))
        { s with
          hdr := 0xFA, cnt := 0, idx := 1, dir := .rd, ferr := false, cs := false
          busIn := answers, rbuf := Memory.write s.rbuf 0 status, txstat := maskStatus status
          trace := s.trace ++ okWindow 0xFA r [0x00] [status] } := by
  have hop := advance_read_ok (o := rburstArgs Config.txStatusAddress 1) (rs := [status]) (rest := answers)
    hr hf (by simp [opArgs, hc]) rfl rfl hb
  rw [show 6 = [status].length + 4 + 1 from rfl, advance_then_ok hop rfl, afterOk_of_txStatus (by exact hc)]
  simp [txStatusDone, txJudge, readOrFree, Memory.writeFrom, txResult_maskStatus, rburstArgs, respond, emit, hf] <;>
    rfl

/-- The block when TX has sent its payload and its completion wait is about to be entered. -/
def txSentState (s : State) (len : Byte) (data received : List Byte) (r1 r2 r3 : Byte)
    (answers : List BusAnswer) : State :=
  { acceptTx len s with
    ctl := .txStx, hdr := 0x35, cnt := 0, idx := 0, dir := .none, ferr := false, cs := false
    busIn := answers, trace := s.trace ++ txSentEvents data received r1 r2 r3 }

/-- TX steps 1 to 3, every exchange answered `ok`. -/
theorem advance_txSent {s : State} {len : Byte} {data received : List Byte} {r1 r2 r3 : Byte}
    {answers : List BusAnswer} (h : TxSent s len data received r1 r2 r3 answers) :
    advance (5 + (data.length + 5) + 5) (acceptTx len s) =
      enterTxWait (txSentState s len data received r1 r2 r3 answers) := by
  obtain ⟨-, hcount, hheld, hechoes, hb⟩ := h
  have hsidle := advance_txSidle (s := acceptTx len s) rfl rfl rfl hb
  have hfifo := advance_trans hsidle
    (advance_txFifo (data := data) rfl rfl rfl hcount.symm (hechoes.trans hcount.symm) hheld rfl)
  refine (advance_trans hfifo (advance_txStx rfl rfl rfl rfl)).trans ?_
  simp only [txSentState, txSentEvents, List.append_assoc]
  rfl

theorem txPolledRuns : TxPolledRuns := by
  intro s len data received r1 r2 r3 r4 status k answers levels hsent hpol hbound hpin hp
  have hcount := hsent.count
  obtain ⟨sy, d, hwait⟩ := advance_enterTxWait
    (s := txSentState s len data received r1 r2 r3 (.ok r4 :: .ok status :: answers))
    rfl rfl hpol hbound hpin
  refine ⟨Memory.write s.rbuf 0 status, s.cAddr, s.cLevel, sy, d, Memory.read_write_same .., exec_of_run
    (k := 5 + (data.length + 5) + 5 + (k + 2 + 6)) hsent.ready (by omega) ?_ rfl rfl rfl⟩
  exact advance_trans (advance_txSent hsent) (advance_trans hwait (advance_txStatus rfl rfl rfl rfl))

end Sys2Proof.Machine
end

section
/-! SUPPORT. Proofs/Sequences.lean: INIT and TX have the bus events of the commands their steps stand for
(R92). -/

namespace Sys2Proof.Machine

/-! ## What an observer of the bus and the line sees -/

@[simp] theorem busEvents_append (es fs : List Event) :
    busEvents (es ++ fs) = busEvents es ++ busEvents fs :=
  List.filter_append ..

@[simp] theorem busEvents_samples (levels : List Level) : busEvents (samples levels) = samples levels :=
  List.filter_eq_self.2 fun e he => by
    obtain ⟨v, -, rfl⟩ := List.mem_map.1 he
    rfl

theorem busEvents_exchanges (sent received : List Byte) :
    busEvents (List.zipWith .x sent received) = List.zipWith .x sent received :=
  List.filter_eq_self.2 fun e he => by
    rw [← List.map_uncurry_zip_eq_zipWith] at he
    obtain ⟨p, -, rfl⟩ := List.mem_map.1 he
    rfl

@[simp] theorem busEvents_okWindow (header firstIn : Byte) (sent received : List Byte) :
    busEvents (okWindow header firstIn sent received) = okWindow header firstIn sent received := by
  rw [okWindow, busEvents_append, busEvents_append, busEvents_exchanges]
  rfl

/-- Between `s` and `t` the observer sees these events. -/
def BusRecord (s t : State) (bus : List Event) : Prop :=
  ∃ es, t.trace = s.trace ++ es ∧ busEvents es = bus

theorem BusRecord.trans {s t u : State} {bus bus' : List Event} (h : BusRecord s t bus)
    (k : BusRecord t u bus') : BusRecord s u (bus ++ bus') := by
  obtain ⟨es, ht, hes⟩ := h
  obtain ⟨fs, hu, hfs⟩ := k
  exact ⟨es ++ fs, by rw [hu, ht, List.append_assoc], by rw [busEvents_append, hes, hfs]⟩

/-- A command's response is not among them. -/
theorem BusRecord.of_response {s t : State} {bus : List Event} (k : RspKind) (info : RspInfo)
    (ht : t.trace = s.trace ++ bus ++ [.rsp k info]) (hbus : busEvents bus = bus) : BusRecord s t bus :=
  ⟨bus ++ [.rsp k info], by rw [ht, List.append_assoc],
    by rw [busEvents_append, hbus]; exact List.append_nil bus⟩

/-! ## Commands one after another -/

/-- The instruction `i` takes a ready block from `s` to the ready block `t`, the observer seeing `bus`;
these answers of the BUS and PIN agents are left. -/
structure RunsTo (i : Instr) (s t : State) (bus : List Event) (answers : List BusAnswer)
    (levels : List Level) : Prop where
  exec : exec i s = .next t
  ctl : t.ctl = .ready
  record : BusRecord s t bus
  busIn : t.busIn = answers
  pinIn : t.pinIn = levels

theorem RunsTo.pace {i : Instr} {s t : State} {bus : List Event} {answers : List BusAnswer}
    {levels : List Level} (h : RunsTo i s t bus answers levels) : t.pace = s.pace := by
  obtain ⟨-, -, -, -, -, hpace⟩ := exec_surroundings h.exec
  exact hpace

theorem RunsTo.straps {i : Instr} {s t : State} {bus : List Event} {answers : List BusAnswer}
    {levels : List Level} (h : RunsTo i s t bus answers levels) : t.straps = s.straps := by
  obtain ⟨-, -, -, hstraps, -⟩ := exec_surroundings h.exec
  exact hstraps

theorem RunsTo.dbuf {i : Instr} {s t : State} {bus : List Event} {answers : List BusAnswer}
    {levels : List Level} (h : RunsTo i s t bus answers levels) : t.dbuf = s.dbuf :=
  (exec_surroundings h.exec).1

/-- A strobe, as a step of a sequence (R111). -/
theorem runsTo_strobe {i : Instr} {a : Addr} (hi : ∀ s, accepted i s = acceptStrobe a s) {s : State}
    {r : Byte} {answers : List BusAnswer} (hc : s.ctl = .ready) (hp : 5 ≤ s.pace)
    (hb : s.busIn = .ok r :: answers) :
    ∃ t, RunsTo i s t (okWindow (frame (addrOperand a) Config.flagStrobe) r [] []) answers s.pinIn := by
  obtain ⟨_, _, _, h⟩ := strobeRuns hi s r answers hc hp hb
  exact ⟨_, h, rfl, .of_response .ok .none (by simp [okWindow, Config.flagStrobe]) (by simp), rfl, rfl⟩

/-- A burst write, as a step of a sequence (R112). -/
theorem runsTo_wburst {i : Instr} {a : Addr} {len : Byte} (hi : ∀ s, accepted i s = acceptWburst a len s)
    {s : State} {r : Byte} {data received : List Byte} {answers : List BusAnswer} (hc : s.ctl = .ready)
    (hp : len.toNat + 5 ≤ s.pace) (hdata : data.length = len.toNat) (hheld : dbufHolds s data)
    (hreceived : received.length = len.toNat) (hb : s.busIn = .ok r :: (oks received ++ answers)) :
    ∃ t, RunsTo i s t (okWindow (frame (addrOperand a) Config.writeBurstFlag) r data received) answers
      s.pinIn := by
  obtain ⟨_, _, h⟩ := wburstRuns hi s r data received answers hc hp hdata hheld hreceived hb
  exact ⟨_, h, rfl, .of_response _ _ rfl (by simp), rfl, rfl⟩

/-- A burst read, as a step of a sequence (R113). -/
theorem runsTo_rburst {i : Instr} {a : Addr} {len : Byte} (hi : ∀ s, accepted i s = acceptRburst a len s)
    {s : State} {r : Byte} {received : List Byte} {answers : List BusAnswer} (hc : s.ctl = .ready)
    (hp : len.toNat + 5 ≤ s.pace) (hreceived : received.length = len.toNat)
    (hb : s.busIn = .ok r :: (oks received ++ answers)) :
    ∃ t, RunsTo i s t (okWindow (frame (addrOperand a) Config.readBurstFlag) r
      (List.replicate len.toNat 0x00) received) answers s.pinIn := by
  obtain ⟨_, _, _, _, h, rfl, -⟩ := rburstRuns hi s r received answers hc hp hreceived hb
  exact ⟨_, h, rfl, .of_response _ _ rfl (by simp), rfl, rfl⟩

/-- A wait, as a step of a sequence (R154). -/
theorem runsTo_wait {level : Level} {s : State} {k : Nat} {levels : List Level} (hc : s.ctl = .ready)
    (hp : k + 2 ≤ s.pace) (hbound : ∀ n, pollBound s.straps.pollLimit = some n → k < n)
    (hpin : s.pinIn = List.replicate k (!level) ++ level :: levels) :
    ∃ t, RunsTo (.wait level) s t (samples (List.replicate k (!level) ++ [level])) s.busIn levels := by
  obtain ⟨_, _, _, _, _, h⟩ := waitMatches s level k levels hc hp hbound hpin
  exact ⟨_, h, rfl, .of_response _ _ rfl (by simp), rfl, rfl⟩

/-- INIT (R130). -/
theorem runsTo_init {s : State} {r0 r1 : Byte} {ps cs : List Byte} {answers : List BusAnswer}
    (hc : s.ctl = .ready) (hp : 65 ≤ s.pace) (hps : ps.length = 8) (hcs : cs.length = 47)
    (hb : s.busIn = .ok r0 :: (oks ps ++ .ok r1 :: (oks cs ++ answers))) :
    ∃ t, RunsTo .init s t
      (okWindow 0x7E r0 (List.replicate 8 s.pa0) ps ++ okWindow 0x40 r1 s.cfg.toList cs) answers
      s.pinIn := by
  obtain ⟨_, _, _, _, h⟩ := initRuns s r0 r1 ps cs answers hc hp hps hcs hb
  exact ⟨_, h, rfl, .of_response .ok .none (by simp only [List.append_assoc]) (by simp), rfl, rfl⟩

/-- TX with the polled wait (R134, R155). -/
theorem runsTo_tx {s : State} {len : Byte} {data received : List Byte} {r1 r2 r3 r4 status : Byte} {k : Nat}
    {answers : List BusAnswer} {levels : List Level}
    (hsent : TxSent s len data received r1 r2 r3 (.ok r4 :: .ok status :: answers))
    (hpol : s.straps.policy = .signalPoll) (hbound : ∀ n, pollBound s.straps.pollLimit = some n → k < n)
    (hpin : s.pinIn = List.replicate k (!s.straps.idleLevel) ++ s.straps.idleLevel :: levels)
    (hp : len.toNat + k + 23 ≤ s.pace) :
    ∃ t, RunsTo (.tx len) s t
      (txSentEvents data received r1 r2 r3 ++
        (samples (List.replicate k (!s.straps.idleLevel) ++ [s.straps.idleLevel]) ++
          okWindow 0xFA r4 [0x00] [status])) answers levels := by
  obtain ⟨_, _, _, _, _, -, h⟩ :=
    txPolledRuns s len data received r1 r2 r3 r4 status k answers levels hsent hpol hbound hpin hp
  exact ⟨_, h, rfl, .of_response (txAnswer status) (.txstat (maskStatus status))
    (by simp only [List.append_assoc]; rfl) (by simp [txSentEvents]), rfl, rfl⟩

/-! ## INIT and TX as sequences (R92) -/

/-- Settles O41: both have the windows of R130; only the responses differ. -/
theorem initIsTheSequenceOfItsSteps : Obligations.InitIsTheSequenceOfItsSteps := by
  intro s r0 r1 ps cs answers m1 m2 hc hp hps hcs hbus hheld1 hheld2
  obtain ⟨t, ht⟩ := runsTo_init hc hp hps hcs hbus
  obtain ⟨a, ha⟩ := runsTo_wburst (i := .wrPatable 8) (a := Config.powerTableAddress) (fun _ => rfl)
    (s := { s with dbuf := m1 }) (data := List.replicate 8 s.pa0) hc (by simp; omega) rfl hheld1 hps hbus
  have hpace : a.pace = s.pace := ha.pace
  obtain ⟨b, hb⟩ := runsTo_wburst (i := .wrConfig 47) (a := Config.configBase) (fun _ => rfl)
    (s := { a with dbuf := m2 }) (data := s.cfg.toList) ha.ctl (by simp; omega) (by simp) hheld2 hcs ha.busIn
  obtain ⟨whole, hwhole, hseen⟩ := ht.record
  obtain ⟨steps, hsteps, hseen'⟩ := BusRecord.trans (s := s) (t := a) ha.record hb.record
  exact ⟨t, a, b, whole, steps, ht.exec, ha.exec, hb.exec, hwhole, hsteps, by rw [hseen, hseen']; simp⟩

/-- Settles O40: both have the windows and the samples of R134 in their order; only the responses differ. -/
theorem txIsTheSequenceOfItsSteps : Obligations.TxIsTheSequenceOfItsSteps := by
  intro s len data received r1 r2 r3 r4 status k answers levels hsent hpol hbound hpin hp
  obtain ⟨t, ht⟩ := runsTo_tx hsent hpol hbound hpin hp
  obtain ⟨hc, hcount, hheld, hechoes, hbus⟩ := hsent
  obtain ⟨a, ha⟩ := runsTo_strobe (i := .sidle) (a := Config.idleAddress) (fun _ => rfl) hc (by omega) hbus
  have hpa := ha.pace
  obtain ⟨b, hb⟩ := runsTo_wburst (i := .wrTxfifo len) (a := Config.fifoTxAddress) (data := data)
    (fun _ => rfl) ha.ctl (by omega) hcount (by rwa [dbufHolds, ha.dbuf]) hechoes ha.busIn
  have hpb := hb.pace
  obtain ⟨c, hstx⟩ := runsTo_strobe (i := .stx) (a := Config.txAddress) (fun _ => rfl) hb.ctl (by omega)
    hb.busIn
  have hpc := hstx.pace
  have hstraps : c.straps = s.straps := hstx.straps.trans (hb.straps.trans ha.straps)
  have hline : c.pinIn = s.pinIn := hstx.pinIn.trans (hb.pinIn.trans ha.pinIn)
  obtain ⟨d, hd⟩ := runsTo_wait (level := s.straps.idleLevel) hstx.ctl (by omega) (hstraps ▸ hbound)
    (hline.trans hpin)
  have hpd := hd.pace
  obtain ⟨e, he⟩ := runsTo_rburst (i := .rdTxstatus) (a := Config.txStatusAddress) (received := [status])
    (fun _ => rfl) hd.ctl (by simp; omega) rfl (hd.busIn.trans hstx.busIn)
  obtain ⟨whole, hwhole, hseen⟩ := ht.record
  obtain ⟨steps, hsteps, hseen'⟩ :=
    ha.record.trans (hb.record.trans (hstx.record.trans (hd.record.trans he.record)))
  exact ⟨t, a, b, c, d, e, whole, steps, ht.exec, ha.exec, hb.exec, hstx.exec, hd.exec, he.exec, hwhole,
    hsteps, by rw [hseen, hseen']; simp [txSentEvents]⟩

end Sys2Proof.Machine
end

section
/-! SUPPORT. Proofs/Operations.lean: one bus operation whatever the bus answers: its small steps are the procedure
`Op`, its events are one chip-select window, and the bytes it drops influence nothing (R110, R114, R115). -/

namespace Sys2Proof.Machine

/-! ## Bytes that are dropped (D7) -/

/-- The state with other answers of the BUS agent to come. -/
def withAnswers (answers : List BusAnswer) (s : State) : State := { s with busIn := answers }

theorem readOrFree_withAnswers (answers : List BusAnswer) (m : Memory) (i : Nat) (s : State) :
    readOrFree m i (withAnswers answers s) =
      ((readOrFree m i s).1, withAnswers answers (readOrFree m i s).2) := by
  cases h : Memory.read m i <;> simp [readOrFree, withAnswers, h]

theorem cfgByte_withAnswers (answers : List BusAnswer) (i : Nat) (s : State) :
    cfgByte i (withAnswers answers s) = ((cfgByte i s).1, withAnswers answers (cfgByte i s).2) := by
  cases h : s.cfg[i]? <;> simp [cfgByte, withAnswers, h]

theorem srcByte_withAnswers (answers : List BusAnswer) (s : State) :
    srcByte (withAnswers answers s) = ((srcByte s).1, withAnswers answers (srcByte s).2) := by
  unfold srcByte
  rw [show (withAnswers answers s).ctl = s.ctl from rfl]
  cases s.ctl with
  | initPa => rfl
  | initCfg => exact cfgByte_withAnswers answers _ s
  | _ => exact readOrFree_withAnswers answers _ _ s

/-- The byte to send does not depend on the answers to come. -/
theorem outByte_withAnswers (answers : List BusAnswer) (s : State) :
    outByte (withAnswers answers s) = ((outByte s).1, withAnswers answers (outByte s).2) := by
  unfold outByte
  rw [show (withAnswers answers s).dir = s.dir from rfl]
  cases s.dir with
  | none | rd => rfl
  | wr => exact srcByte_withAnswers answers s

theorem storeReceived_of_not_read {s : State} (h : s.dir ≠ .rd) (r : Byte) : storeReceived r s = s := by
  cases hd : s.dir with
  | rd => exact absurd hd h
  | none | wr => simp [storeReceived, hd]

/-- A good exchange of a data phase that is no read: the byte received is in its event alone. -/
theorem frmData_of_dropped {s : State} (hd : s.dir ≠ .rd) (r : Byte) (answers : List BusAnswer) :
    frmData (withAnswers (.ok r :: answers) s) =
      { (outByte s).2 with
        busIn := answers, trace := s.trace ++ [.x (outByte s).1 r], idx := s.idx + 1, cnt := s.cnt - 1
        frm := if s.cnt - 1 = 0 then .desel else .data } := by
  obtain ⟨v, d, ho, -⟩ := outByte_eq s
  rw [frmData, outByte_withAnswers, ho, busExchange_cons v rfl]
  simp only [afterData]
  rw [storeReceived_of_not_read (by exact hd)]
  rfl

/-- Settles O21: with the header, and in a data phase that is no read, the byte received is in the event of its
exchange alone. -/
theorem droppedBytesInfluenceNothing : Obligations.DroppedBytesInfluenceNothing := by
  intro s a b answers hr hphase
  obtain hf | ⟨hf, hd⟩ := hphase
  · rw [tick_of_hdr (by exact hr) (by exact hf), tick_of_hdr (by exact hr) (by exact hf), frmHdr_ok rfl,
      frmHdr_ok rfl]
  · rw [tick_of_data (by exact hr) (by exact hf), tick_of_data (by exact hr) (by exact hf)]
    have ha := frmData_of_dropped hd a answers
    have hb := frmData_of_dropped hd b answers
    rw [withAnswers] at ha hb
    rw [ha, hb]

/-! ## The procedure `Op` (R110) -/

/-- Between two exchanges of an operation: another data byte follows where none has faulted and one is left. -/
structure BetweenExchanges (s : State) : Prop where
  ret : s.ret = none
  frm : s.frm = if s.ferr = false ∧ s.cnt ≠ 0 then .data else .desel

theorem betweenExchanges_frmHdr {s : State} (hr : s.ret = none) (hferr : s.ferr = false) :
    BetweenExchanges (frmHdr s) := by
  obtain ⟨r, b, d, h⟩ | ⟨b, d, h⟩ := frmHdr_eq s <;> rw [h]
  · exact ⟨hr, by simp [hferr]⟩
  · exact ⟨hr, by simp⟩

theorem betweenExchanges_frmData {s : State} (h : BetweenExchanges s) (hferr : s.ferr = false) :
    BetweenExchanges (frmData s) := by
  obtain ⟨out, r, b, d, m, ht, -, -⟩ | ⟨out, b, d, ht⟩ := frmData_eq s <;> rw [ht]
  · exact ⟨h.ret, by simp [hferr]⟩
  · exact ⟨h.ret, by simp⟩

/-- What each turn of the data loop keeps, the loop keeps. -/
theorem dataLoop_keeps {P : State → Prop} (h : ∀ s, s.ferr = false → s.cnt ≠ 0 → P s → P (frmData s))
    (n : Nat) {s : State} (hs : P s) : P (dataLoop n s) := by
  induction n generalizing s with
  | zero => exact hs
  | succ n ih =>
    rw [dataLoop]
    split
    · next hgo => exact ih (h s hgo.1 hgo.2 hs)
    · exact hs

/-- A turn of the data loop ends it by a fault or leaves one byte fewer. -/
theorem frmData_fewer (s : State) : (frmData s).ferr = true ∨ (frmData s).cnt = s.cnt - 1 := by
  obtain ⟨out, r, b, d, m, h, -, -⟩ | ⟨out, b, d, h⟩ := frmData_eq s <;> rw [h]
  · exact .inr rfl
  · exact .inl rfl

/-- The data loop with room for every byte left ends with a fault or with none left. -/
theorem dataLoop_done {n : Nat} {s : State} (h : s.ferr = true ∨ s.cnt.toNat ≤ n) :
    ¬ ((dataLoop n s).ferr = false ∧ (dataLoop n s).cnt ≠ 0) := by
  induction n generalizing s with
  | zero =>
    rintro ⟨hferr, hcnt⟩
    obtain h | h := h
    · simp [dataLoop, h] at hferr
    · exact hcnt (BitVec.eq_of_toNat_eq (Nat.le_zero.1 h))
  | succ n ih =>
    rw [dataLoop]
    split
    · next hgo =>
      refine ih ((frmData_fewer s).imp_right fun hcnt => ?_)
      have hle : s.cnt.toNat ≤ n + 1 := h.resolve_left (by simp [hgo.1])
      have := hgo.2
      rw [hcnt]
      bv_omega
    · next hstop => exact hstop

/-- The framer's small steps run the data loop. -/
theorem advance_dataLoop (n : Nat) {s : State} (h : BetweenExchanges s) :
    ∃ k ≤ n, advance k s = dataLoop n s := by
  induction n generalizing s with
  | zero => exact ⟨0, Nat.le_refl 0, rfl⟩
  | succ n ih =>
    rw [dataLoop]
    split
    · next hgo =>
      obtain ⟨k, hk, hrun⟩ := ih (betweenExchanges_frmData h hgo.1)
      exact ⟨k + 1, by omega, by
        rw [advance_succ, tick_of_data h.ret (by rw [h.frm, if_pos hgo]), hrun]⟩
    · exact ⟨0, Nat.zero_le _, rfl⟩

/-- The state of an operation after its header's exchange. -/
def headerDone (o : OpArgs) (s : State) : State := frmHdr (frmSel (loadOp o s))

theorem betweenExchanges_headerDone (o : OpArgs) {s : State} (hr : s.ret = none) :
    BetweenExchanges (headerDone o s) :=
  betweenExchanges_frmHdr hr rfl

/-- The state of an operation after its last exchange. -/
def exchangesDone (o : OpArgs) (s : State) : State := dataLoop o.len.toNat (headerDone o s)

theorem opProcedure_eq (o : OpArgs) (s : State) : opProcedure o s = frmDesel (exchangesDone o s) := rfl

/-- The header's exchange takes no data byte. -/
theorem headerDone_cnt (o : OpArgs) (s : State) : (headerDone o s).cnt = o.len := by
  obtain ⟨r, b, d, h⟩ | ⟨b, d, h⟩ := frmHdr_eq (frmSel (loadOp o s)) <;> rw [headerDone, h] <;> rfl

theorem exchangesDone_stops (o : OpArgs) (s : State) :
    ¬ ((exchangesDone o s).ferr = false ∧ (exchangesDone o s).cnt ≠ 0) :=
  dataLoop_done (.inr (by rw [headerDone_cnt]))

/-- Settles O22: the load, the phases of the header, the turns of the data loop and the deassertion are a small
step each. -/
theorem framerRunsTheOpProcedure : Obligations.FramerRunsTheOpProcedure := by
  intro s o ho hf hr
  have hbetween := betweenExchanges_headerDone o hr
  have hheader : advance 3 s = headerDone o s := by
    rw [advance_succ, tick_start hr hf ho, advance_succ, tick_of_sel (by exact hr) rfl, advance_succ,
      tick_of_hdr (by exact hr) rfl, advance_zero, headerDone]
  obtain ⟨k, hk, hloop⟩ := advance_dataLoop o.len.toNat hbetween
  have hend : BetweenExchanges (exchangesDone o s) :=
    dataLoop_keeps (fun _ hferr _ h => betweenExchanges_frmData h hferr) _ hbetween
  refine ⟨3 + k + 1, by omega, ?_⟩
  rw [advance_succ', advance_trans hheader hloop]
  exact tick_of_desel hend.ret (hend.frm.trans (if_neg (exchangesDone_stops o s)))

/-! ## One chip-select window (R114) -/

/-- The exchanges of a window opened in `before`, of the `total` its operation has: good ones alone, `left` of them
to come, or good ones and then one that faulted. -/
def Exchanged (before : State) (total left : Nat) (s : State) : Prop :=
  ∃ good : List Event, (∀ e ∈ good, e.isExchange = true ∧ e.isFault = false) ∧
    ((s.ferr = false ∧ s.trace = before.trace ++ [.csAssert] ++ good ∧ good.length + left = total) ∨
      (s.ferr = true ∧ good.length < total ∧
        ∃ out, s.trace = before.trace ++ [.csAssert] ++ (good ++ [.xf out])))

/-- A good exchange is one fewer to come. -/
theorem Exchanged.then_good {before s t : State} {total left : Nat} {out r : Byte}
    (h : Exchanged before total (left + 1) s) (hs : s.ferr = false) (ht : t.ferr = s.ferr)
    (htrace : t.trace = s.trace ++ [.x out r]) : Exchanged before total left t := by
  obtain ⟨good, hgood, ⟨-, hevents, hcount⟩ | ⟨hferr, -⟩⟩ := h
  · refine ⟨good ++ [.x out r], fun e he => ?_,
      .inl ⟨ht.trans hs, by rw [htrace, hevents]; simp, by simp; omega⟩⟩
    obtain he | he := List.mem_append.1 he
    · exact hgood e he
    · obtain rfl := List.mem_singleton.1 he
      exact ⟨rfl, rfl⟩
  · simp [hs] at hferr

/-- A faulted exchange is the last. -/
theorem Exchanged.then_fault {before s t : State} {total left left' : Nat} {out : Byte}
    (h : Exchanged before total (left + 1) s) (hs : s.ferr = false) (ht : t.ferr = true)
    (htrace : t.trace = s.trace ++ [.xf out]) : Exchanged before total left' t := by
  obtain ⟨good, hgood, ⟨-, hevents, hcount⟩ | ⟨hferr, -⟩⟩ := h
  · exact ⟨good, hgood, .inr ⟨ht, by omega, out, by rw [htrace, hevents]; simp⟩⟩
  · simp [hs] at hferr

theorem exchanged_headerDone (o : OpArgs) (s : State) :
    Exchanged s (o.len.toNat + 1) (headerDone o s).cnt.toNat (headerDone o s) := by
  have hopen : Exchanged s (o.len.toNat + 1) (o.len.toNat + 1) (frmSel (loadOp o s)) :=
    ⟨[], nofun, .inl ⟨rfl, by simp [frmSel], by simp⟩⟩
  rw [headerDone_cnt, headerDone]
  obtain ⟨r, b, d, h⟩ | ⟨b, d, h⟩ := frmHdr_eq (frmSel (loadOp o s)) <;> rw [h]
  · exact hopen.then_good rfl rfl rfl
  · exact hopen.then_fault rfl rfl rfl

theorem exchanged_frmData {before s : State} {total : Nat} (hferr : s.ferr = false) (hcnt : s.cnt ≠ 0)
    (h : Exchanged before total s.cnt.toNat s) :
    Exchanged before total (frmData s).cnt.toNat (frmData s) := by
  have hleft : s.cnt.toNat = (s.cnt - 1).toNat + 1 := by bv_omega
  rw [hleft] at h
  obtain ⟨out, r, b, d, m, ht, -, -⟩ | ⟨out, b, d, ht⟩ := frmData_eq s <;> rw [ht]
  · exact h.then_good hferr rfl rfl
  · exact h.then_fault hferr rfl rfl

theorem exchanged_exchangesDone (o : OpArgs) (s : State) :
    Exchanged s (o.len.toNat + 1) (exchangesDone o s).cnt.toNat (exchangesDone o s) :=
  dataLoop_keeps (P := fun t => Exchanged s (o.len.toNat + 1) t.cnt.toNat t)
    (fun _ hferr hcnt h => exchanged_frmData hferr hcnt h) _ (exchanged_headerDone o s)

/-- Settles O23: the events before the deassertion are the window's exchanges, and chip-select follows the
framer's phase by the invariant. -/
theorem operationIsOneWindow : Obligations.OperationIsOneWindow := by
  refine ⟨fun s o ho hf hr => ?_, fun s t hinv hstep hidle => ?_⟩
  · obtain ⟨k, hk, hrun⟩ := framerRunsTheOpProcedure s o ho hf hr
    refine ⟨k, ?_⟩
    rw [hrun, opProcedure_eq]
    obtain ⟨good, hgood, ⟨hferr, hevents, hcount⟩ | ⟨hferr, hcount, out, hevents⟩⟩ :=
      exchanged_exchangesDone o s
    · have hnone : (exchangesDone o s).cnt = 0 := by
        by_contra hcnt
        exact exchangesDone_stops o s ⟨hferr, hcnt⟩
      have hall : good.length = o.len.toNat + 1 := by simpa [hnone] using hcount
      refine ⟨good, hk, by simp [frmDesel, hevents], by rintro rfl; simp at hall,
        fun e he => (hgood e he).1, fun e he => (hgood e (List.dropLast_subset _ he)).2, rfl, rfl,
        .inl ⟨by simp [frmDesel, hferr, opResult], hall, fun e he => (hgood e he).2⟩⟩
    · refine ⟨good ++ [.xf out], hk, by simp [frmDesel, hevents], by simp, fun e he => ?_,
        fun e he => ?_, rfl, rfl,
        .inr ⟨by simp [frmDesel, hferr, opResult], by simp; omega, out, by simp⟩⟩
      · obtain he | he := List.mem_append.1 he
        · exact (hgood e he).1
        · obtain rfl := List.mem_singleton.1 he
          rfl
      · rw [List.dropLast_concat] at he
        exact (hgood e he).2
  · rw [(everyStepKeepsTheInvariant s t hinv hstep).csPhase, hidle]
    rfl

end Sys2Proof.Machine
end

section
/-! SUPPORT. Proofs/Primitives.lean: STROBE, WBURST and RBURST with an exchange that faults, and with the runs of
Proofs/GoodRuns.lean their rules whole, for the commands of R92 too (R111 to R113, R115). -/

namespace Sys2Proof.Machine

/-! ## A fault ends the command -/

/-- After an operation that returns `BusFault` the command is aborted, within the pace (R178). -/
theorem exec_of_fault {i : Instr} {s t : State} {k : Nat} (hc : s.ctl = .ready) (hk : k + 1 ≤ s.pace)
    (h : advance k (accepted i s) = t) (hf : t.frm = .idle) (hr : t.ret = some .busFault) :
    exec i s = .next (abort .busFault { t with ret := none }) := by
  refine exec_of_run hc hk ?_ rfl hf rfl
  rw [advance_succ', h, tick_of_ret hr]
  rfl

/-- An aborted command leaves no byte of RBUF readable (R179, R211). -/
theorem Aborted.hostReadRbuf_eq {k : RspKind} {s t : State} (h : Aborted k s t) (j : Nat) :
    hostReadRbuf j t = none := by
  simp [hostReadRbuf, h.rspRlen]

/-- The state in which an operation returns `BusFault`, by the framer's registers at the fault, the answers left,
RBUF and the events of its window (R110, R115). -/
def faultReturned (header n j : Byte) (kind : Dir) (answers : List BusAnswer) (m : Memory)
    (window : List Event) (a : State) : State :=
  { a with
    hdr := header, cnt := n, idx := j, dir := kind, ferr := true, cs := false, frm := .idle
    ret := some .busFault, busIn := answers, rbuf := m, trace := a.trace ++ window }

/-- A command whose one operation faults: what R179 gives, the latches as accepted, and the framer's registers as
they stood at the fault. -/
theorem exec_of_faultReturned {i : Instr} {s a : State} {k done : Nat} {len header n j : Byte} {kind : Dir}
    {answers : List BusAnswer} {m : Memory} {window : List Event} (hi : accepted i s = a)
    (hc : s.ctl = .ready) (hk : k + 1 ≤ s.pace)
    (h : advance k a = faultReturned header n j kind answers m window a)
    (hj : j.toNat = done) (hn : n.toNat + done = len.toNat) :
    ∃ t, exec i s = .next t ∧ Aborted .busFault s t ∧ t.busIn = answers ∧
      t.cOp = a.cOp ∧ t.cAddr = a.cAddr ∧ t.cLen = a.cLen ∧ FaultedAt header kind len.toNat done t ∧
      t.trace = s.trace ++ window ++ [.rsp .busFault .none] := by
  subst hi
  obtain ⟨-, -, -, htrace, -, hdbuf, -⟩ := accepted_rest i s
  refine ⟨_, exec_of_fault hc hk h rfl rfl, ⟨rfl, rfl, rfl, rfl, rfl, rfl, hdbuf⟩, rfl, rfl, rfl, rfl,
    ⟨rfl, hj, hn, rfl, rfl⟩, ?_⟩
  rw [← htrace]
  rfl

/-- The data bytes left at a fault and those done are all of the operation's (R24). -/
theorem counts_at_fault {len : Byte} {done : Nat} (h : done < len.toNat) :
    (BitVec.ofNat 8 done).toNat = done ∧ (len - BitVec.ofNat 8 done).toNat + done = len.toNat := by
  constructor <;> bv_omega

/-! ## The three operations with a fault (R115) -/

theorem strobeFaults {i : Instr} {a : Addr} (hi : ∀ s, accepted i s = acceptStrobe a s) :
    StrobeFaults i a := by
  intro s answers hc hp hb
  obtain ⟨t, hexec, habort, hbus, hcOp, hcAddr, -, hregs, htrace⟩ :=
    exec_of_faultReturned (len := 0) (hi s) hc hp
      (advance_header_fault (o := strobeArgs a) rfl rfl rfl hb) rfl rfl
  exact ⟨t, hexec, habort, by rw [htrace, List.append_assoc]; rfl, hbus, hcOp, hcAddr, hregs⟩

theorem wburstFaults {i : Instr} {a : Addr} {len : Byte}
    (hi : ∀ s, accepted i s = acceptWburst a len s) : WburstFaults i a len := by
  constructor
  · intro s answers hc hp hb
    exact exec_of_faultReturned (hi s) hc (by omega)
      (advance_header_fault (o := wburstArgs a len) rfl rfl rfl hb) rfl rfl
  · intro s r bad sent received answers hc hp hlt hheld hreceived hb
    have hsent : ∀ j (h : j < sent.length), Memory.read s.dbuf j = some sent[j] := fun j h => by
      rw [hheld j (by simp; omega), List.getElem_append_left h]
    have hbad : Memory.read s.dbuf sent.length = some bad := by
      rw [hheld sent.length (by simp)]; simp
    obtain ⟨hidx, hcnt⟩ := counts_at_fault hlt
    exact exec_of_faultReturned (hi s) hc (by omega)
      (advance_write_fault (o := wburstArgs a len) rfl rfl rfl rfl hlt hreceived hsent hbad hb) hidx hcnt

theorem rburstFaults {i : Instr} {a : Addr} {len : Byte}
    (hi : ∀ s, accepted i s = acceptRburst a len s) : RburstFaults i a len := by
  constructor
  · intro s answers hc hp hb
    obtain ⟨t, hexec, habort, hbus, hcOp, hcAddr, hcLen, hregs, htrace⟩ :=
      exec_of_faultReturned (hi s) hc (by omega)
        (advance_header_fault (o := rburstArgs a len) rfl rfl rfl hb) rfl rfl
    exact ⟨t, hexec, habort, hbus, hcOp, hcAddr, hcLen, hregs, habort.hostReadRbuf_eq, htrace⟩
  · intro s r received answers hc hp hlt hb
    obtain ⟨hidx, hcnt⟩ := counts_at_fault hlt
    obtain ⟨t, hexec, habort, hbus, hcOp, hcAddr, hcLen, hregs, htrace⟩ :=
      exec_of_faultReturned (hi s) hc (by omega)
        (advance_read_fault (o := rburstArgs a len) rfl rfl rfl rfl hlt hb) hidx hcnt
    exact ⟨t, hexec, habort, hbus, hcOp, hcAddr, hcLen, hregs, habort.hostReadRbuf_eq, htrace⟩

/-! ## The rules, for every address and for the commands of R92 -/

/-- Settles O25: each of the three is accepted as a strobe of its address. -/
theorem strobeFollowsItsRule : Obligations.StrobeFollowsItsRule :=
  have rule {i : Instr} {a : Addr} (hi : ∀ s, accepted i s = acceptStrobe a s) :
      StrobeRuns i a ∧ StrobeFaults i a := ⟨strobeRuns hi, strobeFaults hi⟩
  ⟨fun _ => rule fun _ => rfl, (rule fun _ => rfl).1, (rule fun _ => rfl).2, (rule fun _ => rfl).1,
    (rule fun _ => rfl).2⟩

/-- Settles O26: each of the four is accepted as a burst write of its length to its address. -/
theorem wburstFollowsItsRule : Obligations.WburstFollowsItsRule :=
  have rule {i : Instr} {a : Addr} {len : Byte} (hi : ∀ s, accepted i s = acceptWburst a len s) :
      WburstRuns i a len ∧ WburstFaults i a len := ⟨wburstRuns hi, wburstFaults hi⟩
  ⟨fun _ _ => rule fun _ => rfl, fun _ => rule fun _ => rfl, fun _ => rule fun _ => rfl,
    fun _ => rule fun _ => rfl⟩

/-- Settles O27: both are accepted as a burst read of their length from their address. -/
theorem rburstFollowsItsRule : Obligations.RburstFollowsItsRule :=
  ⟨fun _ _ => ⟨rburstRuns fun _ => rfl, rburstFaults fun _ => rfl⟩, rburstRuns fun _ => rfl,
    rburstFaults fun _ => rfl⟩

end Sys2Proof.Machine
end

section
/-! SUPPORT. Proofs/BusFrames.lean: what the commands made of bus operations alone leave unchanged, at any pace and
for any answers (R111 to R113, R130, R179; log entries 15, 18 and 25). -/

namespace Sys2Proof.Machine

/-! ## What their small steps leave alone -/

/-- A response `BUS_FAULT` stands. -/
def FaultPosted (s : State) : Prop := s.rspValid = true ∧ s.rspCode = RspKind.code .busFault

/-- From `s` to `t` the poller, the line and, but for an abort, `txstat` and RBUF from index `n` on are left
alone. -/
structure BusFrame (n : Nat) (s t : State) : Prop where
  tgtLevel : t.tgtLevel = s.tgtLevel
  pollCnt : t.pollCnt = s.pollCnt
  sync : t.sync = s.sync
  pinIn : t.pinIn = s.pinIn
  data : ¬ FaultPosted t → t.txstat = s.txstat ∧ ∀ j, n ≤ j → Memory.read t.rbuf j = Memory.read s.rbuf j

theorem BusFrame.of_same {n : Nat} {s t : State} (htgt : t.tgtLevel = s.tgtLevel)
    (hpoll : t.pollCnt = s.pollCnt) (hsync : t.sync = s.sync) (hpin : t.pinIn = s.pinIn)
    (htx : t.txstat = s.txstat) (hrbuf : t.rbuf = s.rbuf) : BusFrame n s t :=
  ⟨htgt, hpoll, hsync, hpin, fun _ => ⟨htx, fun _ _ => by rw [hrbuf]⟩⟩

/-- Where no fault is posted in between, two frames make one. -/
theorem BusFrame.trans {n : Nat} {s t u : State} (h : BusFrame n s t) (hp : ¬ FaultPosted t)
    (k : BusFrame n t u) : BusFrame n s u where
  tgtLevel := k.tgtLevel.trans h.tgtLevel
  pollCnt := k.pollCnt.trans h.pollCnt
  sync := k.sync.trans h.sync
  pinIn := k.pinIn.trans h.pinIn
  data hu := by
    obtain ⟨htx, hrbuf⟩ := h.data hp
    obtain ⟨htx', hrbuf'⟩ := k.data hu
    exact ⟨htx'.trans htx, fun j hj => (hrbuf' j hj).trans (hrbuf j hj)⟩

/-- A read in the framer stays below index `n` of RBUF (R24). -/
def ReadsBelow (n : Nat) (s : State) : Prop :=
  s.frm ≠ .idle → s.dir = .rd → s.idx.toNat + s.cnt.toNat ≤ n

theorem readsBelow_of_idle {n : Nat} {s : State} (h : s.frm = .idle) : ReadsBelow n s :=
  fun hf => absurd h hf

theorem busFrame_frmHdr (n : Nat) (s : State) : BusFrame n s (frmHdr s) := by
  obtain ⟨r, b, d, h⟩ | ⟨b, d, h⟩ := frmHdr_eq s <;> rw [h] <;>
    exact .of_same rfl rfl rfl rfl rfl rfl

theorem readsBelow_frmHdr {n : Nat} {s : State} (h : ReadsBelow n s) (hf : s.frm = .hdr) :
    ReadsBelow n (frmHdr s) := by
  have hle := h (by simp [hf])
  obtain ⟨r, b, d, ht⟩ | ⟨b, d, ht⟩ := frmHdr_eq s <;> rw [ht] <;> exact fun _ => hle

/-- A data byte is kept in a read alone, below the end of the read (R110). -/
theorem busFrame_frmData {n : Nat} {s : State} (h : ReadsBelow n s) (hf : s.frm = .data)
    (hcnt : s.cnt ≠ 0) : BusFrame n s (frmData s) := by
  obtain ⟨out, r, b, d, m, ht, hrd, hnot⟩ | ⟨out, b, d, ht⟩ := frmData_eq s <;> rw [ht]
  · refine ⟨rfl, rfl, rfl, rfl, fun _ => ⟨rfl, fun j hj => ?_⟩⟩
    by_cases hd : s.dir = .rd
    · have hle := h (by simp [hf]) hd
      have hne : j ≠ s.idx.toNat := by bv_omega
      rw [hrd hd, Memory.read_write_other _ _ hne]
    · rw [hnot hd]
  · exact .of_same rfl rfl rfl rfl rfl rfl

theorem readsBelow_frmData {n : Nat} {s : State} (h : ReadsBelow n s) (hf : s.frm = .data)
    (hcnt : s.cnt ≠ 0) : ReadsBelow n (frmData s) := by
  have hle := h (by simp [hf])
  obtain ⟨out, r, b, d, m, ht, -, -⟩ | ⟨out, b, d, ht⟩ := frmData_eq s <;> rw [ht] <;> intro _ hd
  · have := hle hd
    simp only
    bv_omega
  · exact hle hd

/-! ## Their states -/

/-- The controller's states of the commands made of bus operations alone (R116, R130). -/
theorem Ctl.of_entry_bus {c : Ctl} (h : c.entry = .prim ∨ c.entry = .initPa) :
    c = .prim ∨ c = .initPa ∨ c = .initCfg := by
  cases c <;> simp [Ctl.entry] at h ⊢

/-- Of their operations only the primitive read is a read, of the length latched (R113, R116). -/
theorem read_of_opArgs {s : State} {o : OpArgs} (hc : s.ctl = .prim ∨ s.ctl = .initPa ∨ s.ctl = .initCfg)
    (ho : opArgs s = some o) (hk : o.kind = .rd) : s.cOp = 0b011#3 ∧ o.len = s.cLen := by
  rcases hc with hc | hc | hc <;> simp only [opArgs, hc, primArgs] at ho
  · split_ifs at ho with h0 h1 h3 <;> cases ho
    · cases hk
    · cases hk
    · exact ⟨h3, rfl⟩
  · cases ho; cases hk
  · cases ho; cases hk

/-- What a good sub-step leads to in these states (R116, R130). -/
theorem afterOk_of_bus {s : State} (hc : s.ctl = .prim ∨ s.ctl = .initPa ∨ s.ctl = .initCfg) :
    afterOk s = { s with ctl := .initCfg } ∨ ∃ len info, afterOk s = respond .ok len info s := by
  obtain hc | hc | hc := hc
  · rw [afterOk_of_prim hc, primDone]
    split
    · exact .inr ⟨_, _, rfl⟩
    · exact .inr ⟨_, _, rfl⟩
  · exact .inl (afterOk_of_initPa hc)
  · exact .inr ⟨_, _, afterOk_of_initCfg hc⟩

/-- An abort posts its fault, and what follows a good sub-step writes none of the fields (R116, R130, R179). -/
theorem busFrame_onReturn (n : Nat) {s : State} {r : Ret}
    (hc : s.ctl = .prim ∨ s.ctl = .initPa ∨ s.ctl = .initCfg) (hfit : retFits s.ctl r = true) :
    BusFrame n s (onReturn r s) := by
  cases r with
  | busFault => exact ⟨rfl, rfl, rfl, rfl, fun hp => absurd ⟨rfl, rfl⟩ hp⟩
  | timeout => rcases hc with hc | hc | hc <;> simp [retFits, hc] at hfit
  | ok =>
    rw [onReturn_ok]
    obtain h | ⟨len, info, h⟩ := afterOk_of_bus (s := { s with ret := none }) hc <;> rw [h] <;>
      exact .of_same rfl rfl rfl rfl rfl rfl

/-- A returned value finds the framer idle (R22). -/
theorem InFlight.idle_of_ret {i : Instr} {s : State} (h : InFlight i s) {r : Ret} (hr : s.ret = some r) :
    s.frm = .idle := by
  by_contra hn
  simp [(h.framer hn).2] at hr

/-- One small step of a command made of bus operations alone, its read, if it is one, below index `n`. -/
theorem busFrame_tick {i : Instr} {n : Nat} {s : State} (hi : entryOf i = .prim ∨ entryOf i = .initPa)
    (h : InFlight i s) (hread : s.cOp = 0b011#3 → s.cLen.toNat ≤ n) (hbelow : ReadsBelow n s) :
    BusFrame n s (tick s) ∧ ReadsBelow n (tick s) := by
  have hc := Ctl.of_entry_bus (h.stage ▸ hi)
  obtain ⟨r, hr, ht⟩ | ⟨hr, hf, ht⟩ | ⟨hr, hf, ht⟩ | ⟨hr, hf, ht⟩ | ⟨hr, hf, ht⟩ | ⟨hr, hf, ht⟩ :=
    tick_cases s <;> rw [ht]
  · exact ⟨busFrame_onReturn n hc (h.retLegal r hr),
      readsBelow_of_idle ((onReturn_frm r s).trans (h.idle_of_ret hr))⟩
  · obtain ⟨o, ho⟩ := h.operation (by rcases hc with hc | hc | hc <;> rw [hc] <;> rfl)
    rw [← ht, tick_start hr hf ho]
    refine ⟨.of_same rfl rfl rfl rfl rfl rfl, fun _ hd => ?_⟩
    obtain ⟨hop, hlen⟩ := read_of_opArgs hc ho hd
    simpa [hlen] using hread hop
  · exact ⟨.of_same rfl rfl rfl rfl rfl rfl, fun _ => hbelow (by simp [hf])⟩
  · exact ⟨busFrame_frmHdr n s, readsBelow_frmHdr hbelow hf⟩
  · exact ⟨busFrame_frmData hbelow hf (h.dataLeft hf), readsBelow_frmData hbelow hf (h.dataLeft hf)⟩
  · exact ⟨.of_same rfl rfl rfl rfl rfl rfl, readsBelow_of_idle rfl⟩

/-! ## Their runs -/

/-- Any number of small steps of such a command, from its acceptance on. -/
theorem busFrame_advance {i : Instr} {n : Nat} {s : State}
    (hi : entryOf i = .prim ∨ entryOf i = .initPa)
    (hread : (accepted i s).cOp = 0b011#3 → (accepted i s).cLen.toNat ≤ n) (k : Nat) :
    BusFrame n (accepted i s) (advance k (accepted i s)) ∧
      (InFlight i (advance k (accepted i s)) → ReadsBelow n (advance k (accepted i s))) := by
  obtain ⟨hfrm, -, hvalid, -⟩ := accepted_rest i s
  induction k with
  | zero =>
    exact ⟨.of_same rfl rfl rfl rfl rfl rfl, fun _ => readsBelow_of_idle hfrm⟩
  | succ k ih =>
    obtain ⟨hframe, hbelow⟩ := ih
    have hsame := sameCommand_advance k (accepted i s)
    rw [advance_succ']
    obtain ⟨hrun, hun⟩ | hdone := (inFlight_accepted i s).inFlight_or_completed k
    · have hnone : ¬ FaultPosted (advance k (accepted i s)) := fun hp => by
        simp [FaultPosted, hun.rspValid, hvalid] at hp
      obtain ⟨hstep, hbelow'⟩ := busFrame_tick hi hrun (by rwa [hsame.cOp, hsame.cLen]) (hbelow hrun)
      exact ⟨hframe.trans hnone hstep, fun _ => hbelow'⟩
    · rw [hdone.tick_eq]
      exact ⟨hframe, hbelow⟩

/-- Acceptance of such a command writes neither the poller's registers, nor the synchronizer, `txstat` or the level
latch (R25, R26). -/
theorem accepted_of_bus {i : Instr} (hi : entryOf i = .prim ∨ entryOf i = .initPa) (s : State) :
    (accepted i s).tgtLevel = s.tgtLevel ∧ (accepted i s).pollCnt = s.pollCnt ∧
      (accepted i s).sync = s.sync ∧ (accepted i s).txstat = s.txstat ∧
      (accepted i s).cLevel = s.cLevel := by
  cases i with
  | tx | wait | hdrReserved | cmdReserved010 | cmdReserved111 => simp [entryOf] at hi
  | _ => exact ⟨rfl, rfl, rfl, rfl, rfl⟩

/-- The frame of such a command, its read, if it is one, of at most `n` bytes. -/
theorem exec_busFrame {i : Instr} {n : Nat} {s t : State}
    (hi : entryOf i = .prim ∨ entryOf i = .initPa)
    (hread : (accepted i s).cOp = 0b011#3 → (accepted i s).cLen.toNat ≤ n) (hc : s.ctl = .ready)
    (h : exec i s = .next t) :
    BusFrame n s t ∧ t.cLevel = s.cLevel ∧ t.cLen = (accepted i s).cLen ∧
      t.cAddr = (accepted i s).cAddr := by
  rw [exec_ready hc] at h
  obtain rfl := Host.Outcome.next.inj h
  obtain ⟨-, -, hvalid, -, -, -, hrbuf, -, -, -, -, -, hpin, -⟩ := accepted_rest i s
  obtain ⟨htgt, hpoll, hsync, htx, hlevel⟩ := accepted_of_bus hi s
  have hsame := sameCommand_advance s.pace (accepted i s)
  have haccept : BusFrame n s (accepted i s) :=
    .of_same htgt hpoll hsync hpin htx hrbuf
  have hnone : ¬ FaultPosted (accepted i s) := fun hp => by simp [FaultPosted, hvalid] at hp
  exact ⟨haccept.trans hnone (busFrame_advance hi hread s.pace).1, hsame.cLevel.trans hlevel, hsame.cLen,
    hsame.cAddr⟩

/-- Settles O43: none of these commands is a read, so RBUF is left alone from index 0 on. -/
theorem sendingCommandsLeaveTheRest : Obligations.SendingCommandsLeaveTheRest := by
  intro i s t addr len hi hc h
  have ⟨hentry, hsend⟩ : (entryOf i = .prim ∨ entryOf i = .initPa) ∧ (accepted i s).cOp ≠ 0b011#3 := by
    rcases hi with rfl | rfl | rfl | rfl | rfl | rfl | rfl | rfl <;>
      simp [entryOf, accepted, acceptStrobe, acceptWburst, acceptInit]
  obtain ⟨hframe, hlevel, hlen, haddr⟩ := exec_busFrame (n := 0) hentry (absurd · hsend) hc h
  refine ⟨hframe.tgtLevel, hframe.pollCnt, hframe.sync, hframe.pinIn, hlevel, fun hl => hlen.trans ?_,
    fun hinit => haddr.trans (by rw [hinit]; rfl), fun hp => ?_⟩
  · rcases hl with rfl | rfl | rfl | rfl <;> rfl
  · obtain ⟨htx, hrbuf⟩ := hframe.data hp
    exact ⟨htx, fun j => hrbuf j (Nat.zero_le j)⟩

/-- Settles O44: the read stays below the length latched. -/
theorem readingCommandsLeaveTheRest : Obligations.ReadingCommandsLeaveTheRest := by
  intro s t addr len n i hi hc h
  have hread : entryOf i = .prim ∧ (accepted i s).cLen = n := by
    rcases hi with ⟨rfl, rfl⟩ | ⟨rfl, rfl⟩ <;> exact ⟨rfl, rfl⟩
  obtain ⟨hframe, hlevel, -⟩ :=
    exec_busFrame (n := n.toNat) (.inl hread.1) (fun _ => by rw [hread.2]) hc h
  exact ⟨hframe.tgtLevel, hframe.pollCnt, hframe.sync, hframe.pinIn, hlevel, hframe.data⟩

end Sys2Proof.Machine
end

section
/-! SUPPORT. Proofs/FaultedRuns.lean: INIT and TX with an exchange that faults or a line that stays busy, each run to
its response, and TX with the fixed delay; with the runs of Proofs/GoodRuns.lean the rules of both whole (R130, R134
to R137, R156). -/

namespace Sys2Proof.Machine

/-! ## A fault in any operation of a sequence (R137, R178) -/

/-- The instruction, run from `s` to the start `a` of an operation, ends by a fault there: what R179 gives, the
latches and the poller as in `a`, and the framer's registers as they stood at the fault. -/
def EndsInFault (i : Instr) (s a : State) (header : Byte) (kind : Dir) (len done : Nat)
    (answers : List BusAnswer) (window : List Event) : Prop :=
  ∃ t, exec i s = .next t ∧ Aborted .busFault s t ∧ t.busIn = answers ∧ t.cOp = a.cOp ∧ t.cLen = a.cLen ∧
    PollerUntouched a t ∧ FaultedAt header kind len done t ∧
    t.trace = a.trace ++ window ++ [.rsp .busFault .none]

theorem endsInFault_of_faultReturned {i : Instr} {s a : State} {m k done : Nat} {len header n j : Byte}
    {kind : Dir} {answers : List BusAnswer} {rbuf : Memory} {window : List Event} (hc : s.ctl = .ready)
    (ha : advance m (accepted i s) = a) (hk : m + k + 1 ≤ s.pace)
    (h : advance k a = faultReturned header n j kind answers rbuf window a)
    (hj : j.toNat = done) (hn : n.toNat + done = len.toNat) :
    EndsInFault i s a header kind len.toNat done answers window := by
  obtain ⟨-, -, -, -, -, hdbuf, -⟩ := accepted_rest i s
  have hkept : a.dbuf = s.dbuf := ha ▸ (sameCommand_advance m _).dbuf.trans hdbuf
  exact ⟨_, exec_of_fault hc hk (advance_trans ha h) rfl rfl, ⟨rfl, rfl, rfl, rfl, rfl, rfl, hkept⟩, rfl,
    rfl, rfl, ⟨rfl, rfl, rfl⟩, ⟨rfl, hj, hn, rfl, rfl⟩, rfl⟩

/-- The operation faults at its header. -/
theorem endsInFault_at_header {i : Instr} {s a : State} {m : Nat} {o : OpArgs} {header : Byte}
    {answers : List BusAnswer} (hc : s.ctl = .ready) (ha : advance m (accepted i s) = a)
    (hk : m + 5 ≤ s.pace) (hr : a.ret = none) (hf : a.frm = .idle) (ho : opArgs a = some o)
    (hheader : frame (addrOperand o.addr) o.flag = header) (hb : a.busIn = .fault :: answers) :
    EndsInFault i s a header o.kind o.len.toNat 0 answers (headerFaultWindow header) := by
  subst hheader
  exact endsInFault_of_faultReturned hc ha hk (advance_header_fault hr hf ho hb) rfl rfl

/-- The operation, a burst write, faults at the byte `bad` after the bytes `sent`. -/
theorem endsInFault_in_write {i : Instr} {s a : State} {m : Nat} {o : OpArgs} {header r bad : Byte}
    {sent received : List Byte} {answers : List BusAnswer} (hc : s.ctl = .ready)
    (ha : advance m (accepted i s) = a) (hk : m + sent.length + 6 ≤ s.pace) (hr : a.ret = none)
    (hf : a.frm = .idle) (ho : opArgs a = some o) (hheader : frame (addrOperand o.addr) o.flag = header)
    (hkind : o.kind = .wr) (hlt : sent.length < o.len.toNat) (hl : received.length = sent.length)
    (hsrc : ∀ j (h : j < sent.length), srcAt a j = some sent[j]) (hbad : srcAt a sent.length = some bad)
    (hb : a.busIn = .ok r :: (oks received ++ .fault :: answers)) :
    EndsInFault i s a header .wr o.len.toNat sent.length answers
      (dataFaultWindow header r sent received bad) := by
  subst hheader
  obtain ⟨hidx, hcnt⟩ := counts_at_fault hlt
  exact endsInFault_of_faultReturned hc ha (by omega)
    (advance_write_fault hr hf ho hkind hlt hl hsrc hbad hb) hidx hcnt

/-! ## INIT (R130) -/

/-- INIT has no operand and no wait: nothing is said of the length latch and the poller. -/
theorem EndsInFault.init {s a : State} {header : Byte} {kind : Dir} {len done : Nat}
    {answers : List BusAnswer} {window : List Event}
    (h : EndsInFault .init s a header kind len done answers window) :
    ∃ t, exec .init s = .next t ∧ Aborted .busFault s t ∧ t.busIn = answers ∧ t.cOp = a.cOp ∧
      FaultedAt header kind len done t ∧ t.trace = a.trace ++ window ++ [.rsp .busFault .none] := by
  obtain ⟨t, hexec, habort, hbus, hcOp, -, -, hregs, htrace⟩ := h
  exact ⟨t, hexec, habort, hbus, hcOp, hregs, htrace⟩

/-- The bytes of the power table sent before a fault (R131). -/
theorem initPa_faults_in_data {s : State} {r : Byte} {ps : List Byte} {answers : List BusAnswer}
    (hc : s.ctl = .ready) (hp : 65 ≤ s.pace) (hps : ps.length < 8)
    (hb : s.busIn = .ok r :: (oks ps ++ .fault :: answers)) :
    EndsInFault .init s (acceptInit s) 0x7E .wr 8 ps.length answers
      (dataFaultWindow 0x7E r (List.replicate ps.length s.pa0) ps s.pa0) := by
  have h := endsInFault_in_write (i := .init) (a := acceptInit s) (m := 0) (bad := s.pa0)
    (sent := List.replicate ps.length s.pa0) (received := ps) hc rfl (by rw [List.length_replicate]; omega)
    rfl rfl rfl frame_powerTableAddress rfl (by rw [List.length_replicate]; exact hps)
    List.length_replicate.symm (fun j hj => by rw [List.getElem_replicate]; rfl) rfl hb
  rwa [List.length_replicate] at h

/-- The bytes of the configuration table sent before a fault (R132). -/
theorem initCfg_faults_in_data {s a : State} {m : Nat} {r bad : Byte} {cs : List Byte}
    {answers : List BusAnswer} (hc : s.ctl = .ready) (ha : advance m (accepted .init s) = a)
    (hp : m + 52 ≤ s.pace) (hr : a.ret = none) (hf : a.frm = .idle) (hctl : a.ctl = .initCfg)
    (hbad : a.cfg.toList[cs.length]? = some bad) (hb : a.busIn = .ok r :: (oks cs ++ .fault :: answers)) :
    EndsInFault .init s a 0x40 .wr 47 cs.length answers
      (dataFaultWindow 0x40 r (a.cfg.toList.take cs.length) cs bad) := by
  obtain ⟨hlt, -⟩ := List.getElem?_eq_some_iff.1 hbad
  rw [Vector.length_toList] at hlt
  have htake : (a.cfg.toList.take cs.length).length = cs.length := by simp; omega
  have h := endsInFault_in_write (o := wburstArgs Config.configBase Config.cfgLen) (bad := bad)
    (sent := a.cfg.toList.take cs.length) (received := cs) hc ha (by omega) hr hf (by simp [opArgs, hctl])
    frame_configBase rfl (by rw [htake]; exact hlt) htake.symm (fun j hj => by simp [srcAt, hctl])
    (by rw [htake]; simpa [srcAt, hctl] using hbad) hb
  rwa [htake] at h

theorem initFaults : InitFaults := by
  intro s hc hp
  refine ⟨fun answers hb => ?_, fun r0 ps answers hps hb => (initPa_faults_in_data hc hp hps hb).init,
    fun r0 ps answers hps hb => ?_, fun r0 ps r1 cs bad answers hps hbad hb => ?_⟩
  · exact (endsInFault_at_header (a := acceptInit s) (m := 0)
      (o := wburstArgs Config.powerTableAddress Config.paLen) hc rfl (by omega) rfl rfl rfl
      frame_powerTableAddress hb).init
  · have htable := advance_initPa (s := acceptInit s) rfl rfl rfl hps hb
    exact (endsInFault_at_header (o := wburstArgs Config.configBase Config.cfgLen) hc htable (by omega) rfl
      rfl rfl frame_configBase rfl).init
  · have htable := advance_initPa (s := acceptInit s) rfl rfl rfl hps hb
    exact (initCfg_faults_in_data hc htable hp rfl rfl rfl hbad rfl).init

/-- Settles O29: a fault ends INIT in the table it meets, the power table having been sent whole before the
configuration table. -/
theorem initFollowsItsRule : Obligations.InitFollowsItsRule := ⟨initRuns, initFaults⟩

/-! ## TX with the fixed delay (R156) -/

/-- TX step 4 with the fixed delay: one event, no sample (R155, R156). -/
theorem advance_enterTxWait_delayed {s : State} (hr : s.ret = none) (hf : s.frm = .idle)
    (hpol : s.straps.policy = .fixedDelay) :
    advance 2 (enterTxWait s) = { s with ctl := .txStatus, trace := s.trace ++ [.dly] } := by
  have henter : enterTxWait s = { s with ctl := .txWait } := by simp [enterTxWait, hpol]
  have hdelay : advance 1 (enterTxWait s) = fixedDelay { s with ctl := .txWait } := by
    rw [henter, advance_succ, advance_zero, tick_of_idle (by exact hr) (by exact hf)]
    simp [ctlIdle, completionWait, hpol]
  rw [advance_then_ok hdelay rfl, afterOk_of_txWait rfl]
  simp [fixedDelay, emit, hr]

theorem txDelayedRuns : TxDelayedRuns := by
  intro s len data received r1 r2 r3 r4 status answers hsent hpol hp
  have hcount := hsent.count
  refine ⟨Memory.write s.rbuf 0 status, s.cAddr, s.cLevel, s.sync, Memory.read_write_same .., exec_of_run
    (k := 5 + (data.length + 5) + 5 + (2 + 6)) hsent.ready (by omega) ?_ rfl rfl rfl⟩
  exact advance_trans (advance_txSent hsent)
    (advance_trans (advance_enterTxWait_delayed rfl rfl hpol) (advance_txStatus rfl rfl rfl rfl))

/-- Settles O30: steps 1 to 3, the completion wait of either policy, and the status read with its judgement, one
after another. -/
theorem txSendsAndJudges : Obligations.TxSendsAndJudges := ⟨txPolledRuns, txDelayedRuns⟩

/-! ## TX stopped in steps 1 to 3 (R137) -/

/-- DBUF holds `sent` and then `bad` (R31). -/
theorem dbufHolds_concat {s : State} {sent : List Byte} {bad : Byte} (h : dbufHolds s (sent ++ [bad])) :
    dbufHolds s sent ∧ Memory.read s.dbuf sent.length = some bad :=
  ⟨fun j hj => by rw [h j (by simp; omega), List.getElem_append_left hj],
    by rw [h sent.length (by simp)]; simp⟩

theorem txFaultsBeforeTheWait : TxFaultsBeforeTheWait := by
  intro s len hc hp
  refine ⟨fun answers hb => ?_, fun r1 answers hb => ?_,
    fun r1 r2 sent received bad answers hlt hheld hreceived hb => ?_,
    fun r1 r2 data received answers hcount hheld hreceived hb => ?_⟩
  · exact endsInFault_at_header (i := .tx len) (a := acceptTx len s) (m := 0) hc rfl (by omega) rfl rfl rfl
      frame_idleAddress hb
  · have hsidle := advance_txSidle (s := acceptTx len s) rfl rfl rfl hb
    exact endsInFault_at_header (i := .tx len) hc hsidle (by omega) rfl rfl rfl frame_fifoTxAddress rfl
  · have hsidle := advance_txSidle (s := acceptTx len s) rfl rfl rfl hb
    obtain ⟨hsent, hbad⟩ := dbufHolds_concat hheld
    exact endsInFault_in_write (i := .tx len) hc hsidle (by omega) rfl rfl rfl frame_fifoTxAddress rfl hlt
      hreceived hsent hbad rfl
  · have hsidle := advance_txSidle (s := acceptTx len s) rfl rfl rfl hb
    have hfifo := advance_trans hsidle
      (advance_txFifo (data := data) rfl rfl rfl hcount.symm (hreceived.trans hcount.symm) hheld rfl)
    exact endsInFault_at_header (i := .tx len) hc hfifo (by omega) rfl rfl rfl frame_txAddress rfl

/-! ## TX whose line stays busy (R137, R153, R173) -/

/-- TX step 4, polled: the line is busy for all the samples of the bound (R152, R153). -/
theorem advance_enterTxWait_timeout {s : State} {n : Nat} {levels : List Level} (hr : s.ret = none)
    (hf : s.frm = .idle) (hpol : s.straps.policy = .signalPoll)
    (hbound : pollBound s.straps.pollLimit = some n)
    (hpin : s.pinIn = List.replicate n (!s.straps.idleLevel) ++ levels) :
    ∃ sy d, advance n (enterTxWait s) =
      { s with
        ctl := .txWait, ret := some .timeout, pinIn := levels, sync := sy, draws := d
        tgtLevel := s.straps.idleLevel, pollCnt := n
        trace := s.trace ++ samples (List.replicate n (!s.straps.idleLevel)) } := by
  rw [enterTxWait_of_signalPoll hpol]
  cases hlimit : s.straps.pollLimit with
  | unbounded => simp [hlimit, pollBound] at hbound
  | bounded m =>
    obtain rfl : m + 1 = n := by simpa [hlimit, pollBound] using hbound
    exact advance_timeout (s := startWait s.straps.idleLevel { s with ctl := .txWait })
      (by simp [polling, startWait, hr, hpol]) hf hlimit (Nat.zero_add m) hpin

/-- After a wait that returns `Timeout` the command is aborted (R178). -/
theorem advance_then_timeout {s t : State} {k : Nat} (h : advance k s = t) (hr : t.ret = some .timeout) :
    advance (k + 1) s = abort .timeout { t with ret := none } := by
  rw [advance_succ', h, tick_of_ret hr]
  rfl

theorem txTimesOut : TxTimesOut := by
  intro s len data received r1 r2 r3 n answers levels hsent hpol hbound hpin hp
  have hcount := hsent.count
  obtain ⟨sy, d, hwait⟩ := advance_enterTxWait_timeout
    (s := txSentState s len data received r1 r2 r3 answers) rfl rfl hpol hbound hpin
  have hrun := advance_trans (advance_txSent hsent) hwait
  exact ⟨_, exec_of_run (i := .tx len) hsent.ready (by omega) (advance_then_timeout hrun rfl) rfl rfl rfl,
    ⟨rfl, rfl, rfl, rfl, rfl, rfl, rfl⟩, rfl, rfl, rfl, rfl, rfl, rfl, rfl, rfl, rfl, rfl, rfl, rfl⟩

/-! ## TX stopped in the status read (R137) -/

/-- TX step 5 faults at its header. -/
theorem txStatus_faults_at_header {s a : State} {m : Nat} {len : Byte} {later : List BusAnswer}
    (hc : s.ctl = .ready) (ha : advance m (acceptTx len s) = a) (hk : m + 6 ≤ s.pace) (hr : a.ret = none)
    (hf : a.frm = .idle) (hctl : a.ctl = .txStatus) (hb : a.busIn = .fault :: later) :
    EndsInFault (.tx len) s a 0xFA .rd 1 0 later (headerFaultWindow 0xFA) :=
  endsInFault_at_header (o := rburstArgs Config.txStatusAddress 1) hc ha (by omega) hr hf
    (by simp [opArgs, hctl]) frame_txStatusAddress hb

/-- TX step 5 faults at its data byte. -/
theorem txStatus_faults_in_data {s a : State} {m : Nat} {len r : Byte} {later : List BusAnswer}
    (hc : s.ctl = .ready) (ha : advance m (acceptTx len s) = a) (hk : m + 6 ≤ s.pace) (hr : a.ret = none)
    (hf : a.frm = .idle) (hctl : a.ctl = .txStatus) (hb : a.busIn = .ok r :: .fault :: later) :
    EndsInFault (.tx len) s a 0xFA .rd 1 0 later (dataFaultWindow 0xFA r [] [] 0x00) := by
  have hop := advance_read_fault (o := rburstArgs Config.txStatusAddress 1) (rs := []) hr hf
    (by simp [opArgs, hctl]) rfl (by decide) hb
  exact endsInFault_of_faultReturned (i := .tx len) (len := 1) hc ha hk hop rfl rfl

theorem txFaultsInTheStatusRead : TxFaultsInTheStatusRead := by
  intro s len data received r1 r2 r3 k answers levels hsent hpol hbound hpin hp
  have hcount := hsent.count
  obtain ⟨sy, d, hwait⟩ := advance_enterTxWait
    (s := txSentState s len data received r1 r2 r3 answers) rfl rfl hpol hbound hpin
  have hrun := advance_trans (advance_txSent hsent) hwait
  constructor
  · rintro later rfl
    obtain ⟨t, hexec, habort, hbus, hcOp, hcLen, ⟨htgt, hpoll, hline⟩, hregs, htrace⟩ :=
      txStatus_faults_at_header hsent.ready hrun (by omega) rfl rfl rfl rfl
    exact ⟨t, hexec, habort, hbus, htgt, hpoll, hline, hcOp, hcLen, hregs, htrace⟩
  · rintro r4 later rfl
    obtain ⟨t, hexec, habort, hbus, hcOp, hcLen, ⟨htgt, hpoll, hline⟩, hregs, htrace⟩ :=
      txStatus_faults_in_data hsent.ready hrun (by omega) rfl rfl rfl rfl
    exact ⟨t, hexec, habort, hbus, htgt, hpoll, hline, hcOp, hcLen, hregs, htrace⟩

theorem txFaultsInTheDelayedStatusRead : TxFaultsInTheDelayedStatusRead := by
  intro s len data received r1 r2 r3 answers hsent hpol hp
  have hcount := hsent.count
  have hrun := advance_trans (advance_txSent hsent) (advance_enterTxWait_delayed rfl rfl hpol)
  constructor
  · rintro later rfl
    exact txStatus_faults_at_header hsent.ready hrun (by omega) rfl rfl rfl rfl
  · rintro r4 later rfl
    exact txStatus_faults_in_data hsent.ready hrun (by omega) rfl rfl rfl rfl

/-- Settles O31: each row of R137 runs the steps before its failure, and the value the failing step returns ends
the command. -/
theorem txAbortsAtTheFirstFailure : Obligations.TxAbortsAtTheFirstFailure :=
  ⟨txTimesOut, txFaultsBeforeTheWait, txFaultsInTheStatusRead, txFaultsInTheDelayedStatusRead⟩

/-! ## The status byte (R136) -/

theorem maskStatus_eq_extract (status : Byte) : maskStatus status = status.extractLsb' 0 7 := by
  have hmask : status.toNat &&& 127 = status.toNat % 128 := Nat.and_two_pow_sub_one_eq_mod _ 7
  refine BitVec.eq_of_toNat_eq ?_
  rw [maskStatus, BitVec.toNat_setWidth, BitVec.toNat_and, BitVec.extractLsb'_toNat]
  change (status.toNat &&& 127) % 128 = status.toNat % 128
  rw [hmask, Nat.mod_mod]

/-- Bit 7 is the only one the mask drops. -/
theorem maskStatus_eq_zero_iff (status : Byte) :
    maskStatus status = 0 ↔ status = 0x00#8 ∨ status = 0x80#8 := by
  have hbits : (maskStatus status).toNat = status.toNat % 128 := by
    rw [maskStatus_eq_extract, BitVec.extractLsb'_toNat, Nat.shiftRight_zero]
  bv_omega

theorem txResult_ok_iff (x : BitVec 7) : txResult x = .ok ↔ x = 0 := by
  unfold txResult; split <;> simp_all

theorem txResult_txIncomplete_iff (x : BitVec 7) : txResult x = .txIncomplete ↔ x ≠ 0 := by
  unfold txResult; split <;> simp_all

/-- Settles O32: the result is an equality with zero on the seven bits the mask keeps. -/
theorem txResultOfEveryStatusByte : Obligations.TxResultOfEveryStatusByte := fun status =>
  ⟨(txResult_ok_iff _).trans (maskStatus_eq_zero_iff status), txResult_txIncomplete_iff _,
    maskStatus_eq_extract status⟩

end Sys2Proof.Machine
end

section
/-! SUPPORT. Proofs/TxFrame.lean: what TX leaves unchanged, at any pace and for any answers (R134, R179; log entries 15
and 25). -/

namespace Sys2Proof.Machine

/-- The response of an abort stands (R178). -/
def AbortPosted (s : State) : Prop :=
  s.rspValid = true ∧ (s.rspCode = RspKind.code .busFault ∨ s.rspCode = RspKind.code .timeout)

/-- From `s` to `t`, but for an abort, the bytes of RBUF from index 1 on are left alone. -/
def StatusByteOnly (s t : State) : Prop :=
  ¬ AbortPosted t → ∀ j, 1 ≤ j → Memory.read t.rbuf j = Memory.read s.rbuf j

theorem StatusByteOnly.of_same {s t : State} (h : t.rbuf = s.rbuf) : StatusByteOnly s t :=
  fun _ _ _ => by rw [h]

theorem StatusByteOnly.of_busFrame {s t : State} (h : BusFrame 1 s t) : StatusByteOnly s t :=
  fun hnone => (h.data fun ⟨hvalid, hcode⟩ => hnone ⟨hvalid, .inl hcode⟩).2

theorem StatusByteOnly.trans {s t u : State} (h : StatusByteOnly s t) (ht : ¬ AbortPosted t)
    (k : StatusByteOnly t u) : StatusByteOnly s u :=
  fun hu j hj => (k hu j hj).trans (h ht j hj)

/-! ## TX's small steps -/

theorem pollSample_rbuf (s : State) : (pollSample s).rbuf = s.rbuf := by
  obtain ⟨v, p, ff0, d, ⟨-, h⟩ | ⟨-, -, h⟩ | ⟨n, -, -, h⟩⟩ := pollSample_eq s <;> rw [h]

theorem ctlIdle_rbuf (s : State) : (ctlIdle s).rbuf = s.rbuf := by
  obtain ⟨-, h⟩ | ⟨-, h⟩ | ⟨-, -, h⟩ | ⟨o, -, -, h⟩ | ⟨-, -, h⟩ := ctlIdle_cases s <;> rw [h]
  · rfl
  · exact pollSample_rbuf s
  · rfl
  · rfl

/-- What follows a good sub-step writes no byte of RBUF (R32). -/
theorem afterOk_rbuf (s : State) : (afterOk s).rbuf = s.rbuf := by
  obtain ⟨-, h⟩ | ⟨c, tgt, n, -, -, h, -⟩ | ⟨n, info, -, h, -⟩ | ⟨-, h⟩ := afterOk_cases s <;> rw [h]
  · rfl
  · obtain ⟨status, d, ht, -⟩ := txStatusDone_eq s
    rw [ht]

theorem statusByteOnly_onReturn (r : Ret) (s : State) : StatusByteOnly s (onReturn r s) := by
  cases r with
  | ok => exact .of_same (afterOk_rbuf { s with ret := none })
  | busFault => exact fun hnone => absurd ⟨rfl, .inl rfl⟩ hnone
  | timeout => exact fun hnone => absurd ⟨rfl, .inr rfl⟩ hnone

/-- The one read among TX's operations is of one byte (R134). -/
theorem length_of_tx_read {s : State} {o : OpArgs} (hc : s.ctl.entry = .txSidle) (ho : opArgs s = some o)
    (hk : o.kind = .rd) : o.len = 1 := by
  cases hctl : s.ctl with
  | txStatus => simp only [opArgs, hctl] at ho; cases ho; rfl
  | txSidle | txFifo | txStx => simp only [opArgs, hctl] at ho; cases ho; cases hk
  | txWait => simp [opArgs, hctl] at ho
  | _ => simp [hctl, Ctl.entry] at hc

theorem readsBelow_ctlIdle {s : State} (hc : s.ctl.entry = .txSidle) (hf : s.frm = .idle) :
    ReadsBelow 1 (ctlIdle s) := by
  obtain ⟨-, h⟩ | ⟨-, h⟩ | ⟨-, -, h⟩ | ⟨o, -, ho, h⟩ | ⟨-, -, h⟩ := ctlIdle_cases s <;> rw [h]
  · exact readsBelow_of_idle hf
  · exact readsBelow_of_idle ((pollSample_frm_cs s).1.trans hf)
  · exact readsBelow_of_idle hf
  · intro _ hd
    simp [length_of_tx_read hc ho hd]
  · exact readsBelow_of_idle hf

/-- One small step of a TX in progress. -/
theorem statusByteOnly_tick {len : Byte} {s : State} (h : InFlight (.tx len) s) (hbelow : ReadsBelow 1 s) :
    StatusByteOnly s (tick s) ∧ ReadsBelow 1 (tick s) := by
  obtain ⟨r, hr, ht⟩ | ⟨-, hf, ht⟩ | ⟨-, hf, ht⟩ | ⟨-, hf, ht⟩ | ⟨-, hf, ht⟩ | ⟨-, -, ht⟩ := tick_cases s <;>
    rw [ht]
  · exact ⟨statusByteOnly_onReturn r s,
      readsBelow_of_idle ((onReturn_frm r s).trans (h.idle_of_ret hr))⟩
  · exact ⟨.of_same (ctlIdle_rbuf s), readsBelow_ctlIdle h.stage hf⟩
  · exact ⟨.of_same rfl, fun _ => hbelow (by simp [hf])⟩
  · exact ⟨.of_busFrame (busFrame_frmHdr 1 s), readsBelow_frmHdr hbelow hf⟩
  · exact ⟨.of_busFrame (busFrame_frmData hbelow hf (h.dataLeft hf)),
      readsBelow_frmData hbelow hf (h.dataLeft hf)⟩
  · exact ⟨.of_same rfl, readsBelow_of_idle rfl⟩

/-! ## TX's runs -/

/-- Any number of small steps of a TX, from its acceptance on. -/
theorem statusByteOnly_advance (len : Byte) (s : State) (k : Nat) :
    StatusByteOnly (acceptTx len s) (advance k (acceptTx len s)) ∧
      (InFlight (.tx len) (advance k (acceptTx len s)) → ReadsBelow 1 (advance k (acceptTx len s))) := by
  induction k with
  | zero => exact ⟨.of_same rfl, fun _ => readsBelow_of_idle rfl⟩
  | succ k ih =>
    obtain ⟨hframe, hbelow⟩ := ih
    rw [advance_succ']
    obtain ⟨hrun, hun⟩ | hdone := (inFlight_accepted (.tx len) s).inFlight_or_completed k
    · have hnone : ¬ AbortPosted (advance k (acceptTx len s)) := fun ⟨hvalid, _⟩ =>
        absurd (hun.rspValid.symm.trans hvalid) nofun
      obtain ⟨hstep, hbelow'⟩ := statusByteOnly_tick hrun (hbelow hrun)
      exact ⟨hframe.trans hnone hstep, fun _ => hbelow'⟩
    · have hstill : tick (advance k (acceptTx len s)) = advance k (acceptTx len s) := hdone.tick_eq
      rw [hstill]
      exact ⟨hframe, hbelow⟩

/-- Settles O45: no small step writes a latch, and TX's one read is of one byte. -/
theorem txLeavesTheRest : Obligations.TxLeavesTheRest := by
  intro s t len hc h
  rw [exec_ready hc] at h
  obtain rfl := Host.Outcome.next.inj h
  have hsame := sameCommand_advance s.pace (acceptTx len s)
  exact ⟨hsame.cAddr, hsame.cLevel, (statusByteOnly_advance len s s.pace).1⟩

end Sys2Proof.Machine
end

section
/-! SUPPORT. Proofs/Waits.lean: the wait loop turn by turn, how it is left, the rule of WAIT, and the synchronizer
the loop reads (R150 to R154, R158). -/

namespace Sys2Proof.Machine

/-! ## One turn of the loop (R152) -/

/-- What is left to do after a turn of the loop that met the level `v`: nothing, on a match or at the bound; else
the loop goes on, one more mismatch counted where there is a bound. -/
def TurnEnds (s t : State) (v : Level) : Prop :=
  (v = s.tgtLevel ∧ t.ret = some .ok) ∨
  (v ≠ s.tgtLevel ∧ t.ret = none ∧ pollBound s.straps.pollLimit ≠ some (s.pollCnt + 1) ∧
    ∀ n, pollBound s.straps.pollLimit = some n → t.pollCnt = s.pollCnt + 1) ∨
  (v ≠ s.tgtLevel ∧ t.ret = some .timeout ∧ pollBound s.straps.pollLimit = some (s.pollCnt + 1))

/-- A turn of the loop is one sample, whose level the second flip-flop then holds (R150, R152). -/
theorem pollSample_turn {s : State} (hr : s.ret = none) :
    ∃ v, (pollSample s).trace = s.trace ++ [.s v] ∧ (pollSample s).sync.ff1 = v ∧
      TurnEnds s (pollSample s) v := by
  obtain ⟨v, p, ff0, d, ⟨hv, h⟩ | ⟨hv, hb, h⟩ | ⟨n, hv, hb, h⟩⟩ := pollSample_eq s <;> rw [h] <;>
    refine ⟨v, rfl, rfl, ?_⟩
  · exact .inl ⟨hv, rfl⟩
  · exact .inr (.inl ⟨hv, hr, by simp [hb], by simp [hb]⟩)
  · by_cases hn : s.pollCnt + 1 = n
    · exact .inr (.inr ⟨hv, if_pos hn, hn ▸ hb⟩)
    · exact .inr (.inl ⟨hv, if_neg hn, by simpa [hb] using Ne.symm hn, fun _ _ => rfl⟩)

/-- A polling block takes one turn of the loop in each small step, the controller and the framer where they are. -/
theorem tick_turn {s : State} (hp : polling s = true) (hf : s.frm = .idle) :
    ∃ v, (tick s).trace = s.trace ++ [.s v] ∧ (tick s).sync.ff1 = v ∧ (tick s).ctl = s.ctl ∧
      (tick s).frm = .idle ∧ TurnEnds s (tick s) v := by
  rw [tick_polling hp hf]
  obtain ⟨v, htrace, hsync, hends⟩ := pollSample_turn (polling_cases hp).1
  exact ⟨v, htrace, hsync, (pollSample_ctl_txstat s).1, (pollSample_frm_cs s).1.trans hf, hends⟩

/-! ## How the loop is left (R158) -/

theorem pollerLeavesByMatchOrBound : PollerLeavesByMatchOrBound := by
  intro s hp hf
  obtain ⟨v, htrace, -, hctl, -, hmatch | ⟨hv, hret, hb, -⟩ | hbound⟩ := tick_turn hp hf
  · exact ⟨v, htrace, hctl, .inl hmatch⟩
  · exact ⟨v, htrace, hctl, .inr (.inl ⟨hv, hret, hb⟩)⟩
  · exact ⟨v, htrace, hctl, .inr (.inr hbound)⟩

theorem unboundedWaitNeverGivesUp : UnboundedWaitNeverGivesUp := by
  intro s k levels hp hf hlimit hpin
  obtain ⟨sy, d, h⟩ :=
    advance_mismatches k s levels hp hf (fun n hn => by simp [hlimit, pollBound] at hn) hpin
  rw [h]
  exact ⟨rfl, (polling_cases hp).1, by rw [hlimit]; rfl, hp, rfl⟩

/-- A block that polled and has nothing returned polls on. -/
theorem polling_of_same {s t : State} (hp : polling s = true) (hr : t.ret = none) (hctl : t.ctl = s.ctl)
    (hstraps : t.straps = s.straps) : polling t = true := by
  simpa [polling, hr, hctl, hstraps] using (polling_cases hp).2

/-- Within `m` samples the loop returns `Ok` or `Timeout`. -/
def ReturnsWithin (m : Nat) (s : State) : Prop :=
  ∃ k, 1 ≤ k ∧ k ≤ m ∧ (advance k s).ctl = s.ctl ∧
    ((advance k s).ret = some .ok ∨ (advance k s).ret = some .timeout) ∧
    ∃ vs : List Level, vs.length = k ∧ (advance k s).trace = s.trace ++ samples vs

/-- A turn that returns. -/
theorem ReturnsWithin.of_turn {s : State} {v : Level} (m : Nat) (htrace : (tick s).trace = s.trace ++ [.s v])
    (hctl : (tick s).ctl = s.ctl) (hret : (tick s).ret = some .ok ∨ (tick s).ret = some .timeout) :
    ReturnsWithin (m + 1) s :=
  ⟨1, Nat.le_refl 1, Nat.le_add_left 1 m, hctl, hret, [v], rfl, htrace⟩

/-- A turn after which the loop goes on. -/
theorem ReturnsWithin.after_turn {s : State} {v : Level} {m : Nat} (h : ReturnsWithin m (tick s))
    (htrace : (tick s).trace = s.trace ++ [.s v]) (hctl : (tick s).ctl = s.ctl) :
    ReturnsWithin (m + 1) s := by
  obtain ⟨k, -, hk, hctl', hret, vs, hlen, htrace'⟩ := h
  exact ⟨k + 1, Nat.le_add_left 1 k, Nat.succ_le_succ hk, hctl'.trans hctl, hret, v :: vs, by simp [hlen],
    by simp [advance_succ, htrace', htrace, samples]⟩

/-- A loop with `left` samples left before its bound returns within them, whatever the line does. -/
theorem returnsWithin_of_bound {n left : Nat} {s : State} (hp : polling s = true) (hf : s.frm = .idle)
    (hb : pollBound s.straps.pollLimit = some n) (hlt : s.pollCnt < n) (hleft : s.pollCnt + left = n) :
    ReturnsWithin left s := by
  induction left generalizing s with
  | zero => omega
  | succ left ih =>
    obtain ⟨v, htrace, -, hctl, hfrm, ⟨-, hret⟩ | ⟨-, hret, hmore, hcnt⟩ | ⟨-, hret, -⟩⟩ := tick_turn hp hf
    · exact .of_turn left htrace hctl (.inl hret)
    · have hstraps := (sameCommand_tick s).straps
      have hne : s.pollCnt + 1 ≠ n := fun h => hmore (h ▸ hb)
      have hone := hcnt n hb
      exact .after_turn (ih (polling_of_same hp hret hctl hstraps) hfrm (hstraps ▸ hb) (by omega) (by omega))
        htrace hctl
    · exact .of_turn left htrace hctl (.inr hret)

theorem boundedWaitEnds : BoundedWaitEnds := by
  intro s n hp hf hcnt hb
  exact returnsWithin_of_bound hp hf hb (hcnt ▸ pollBound_pos hb) (by omega)

/-- Settles O34: each small step is a turn of the loop, and a bound leaves room for so many turns. -/
theorem waitLoopEndsByMatchOrBound : Obligations.WaitLoopEndsByMatchOrBound :=
  ⟨pollerLeavesByMatchOrBound, unboundedWaitNeverGivesUp, boundedWaitEnds⟩

/-! ## WAIT (R154) -/

theorem waitTimesOut : WaitTimesOut := by
  intro s level n levels hc hcs hp hb hpin
  cases hlimit : s.straps.pollLimit with
  | unbounded => exact absurd hlimit (limit_of_pollBound hb)
  | bounded m =>
    obtain rfl : m + 1 = n := by simpa [hlimit, pollBound] using hb
    obtain ⟨sy, d, hwait⟩ :=
      advance_timeout (s := acceptWait level s) rfl rfl hlimit (Nat.zero_add m) hpin
    exact ⟨_, exec_of_run (i := .wait level) hc hp (advance_then_timeout hwait rfl) rfl rfl rfl,
      ⟨hcs, rfl, rfl, rfl, rfl, rfl, rfl⟩, rfl, rfl, rfl, rfl, rfl, rfl, rfl⟩

theorem waitHangs : WaitHangs := by
  intro s level k levels hc hp hlimit hpin
  obtain ⟨sy, d, hwait⟩ := advance_mismatches k (acceptWait level s) levels rfl rfl
    (fun n hn => absurd hlimit (limit_of_pollBound hn)) hpin
  refine ⟨_, exec_ready hc _, ?_⟩
  rw [hp, show accepted (.wait level) s = acceptWait level s from rfl, hwait]
  exact ⟨rfl, rfl, rfl, rfl⟩

/-- Settles O33: from its acceptance WAIT is the wait loop, and then the controller takes what it returns. -/
theorem waitFollowsItsRule : Obligations.WaitFollowsItsRule := ⟨waitMatches, waitTimesOut, waitHangs⟩

/-! ## The synchronizer (R35, R150, R151) -/

theorem afterOk_sync (s : State) : (afterOk s).sync = s.sync := by
  obtain ⟨-, h⟩ | ⟨c, tgt, n, -, -, h, -⟩ | ⟨n, info, -, h, -⟩ | ⟨-, h⟩ := afterOk_cases s <;> rw [h]
  · rfl
  · obtain ⟨status, d, ht, -⟩ := txStatusDone_eq s
    rw [ht]

theorem onReturn_sync (r : Ret) (s : State) : (onReturn r s).sync = s.sync := by
  cases r with
  | ok => exact afterOk_sync { s with ret := none }
  | busFault | timeout => rfl

/-- A small step other than a turn of the wait loop leaves the synchronizer as it was (log entry 18). -/
theorem tick_sync {s : State} (h : s.frm = .idle → polling s = false) : (tick s).sync = s.sync := by
  obtain ⟨r, -, ht⟩ | ⟨hr, hf, ht⟩ | ⟨-, -, ht⟩ | ⟨-, -, ht⟩ | ⟨-, -, ht⟩ | ⟨-, -, ht⟩ := tick_cases s <;>
    rw [ht]
  · exact onReturn_sync r s
  · obtain ⟨-, hi⟩ | ⟨hc, -⟩ | ⟨-, -, hi⟩ | ⟨o, -, -, hi⟩ | ⟨-, -, hi⟩ := ctlIdle_cases s
    · rw [hi]; rfl
    · have hp : polling s = true := by simpa [polling, hr] using hc
      simp [h hf] at hp
    · rw [hi]; rfl
    · rw [hi]; rfl
    · rw [hi]
  · rfl
  · obtain ⟨r, b, d, hd⟩ | ⟨b, d, hd⟩ := frmHdr_eq s <;> rw [hd]
  · obtain ⟨out, r, b, d, m, hd, -, -⟩ | ⟨out, b, d, hd⟩ := frmData_eq s <;> rw [hd]
  · rfl

/-- Settles O52: a small step with a sample is a turn of the wait loop, and every such turn is a sample. -/
theorem synchronizerMovesOnlyAtASample : Obligations.SynchronizerMovesOnlyAtASample := by
  refine fun s => ⟨fun v hv => ?_, fun hnone => tick_sync fun hf => ?_⟩
  · obtain ⟨hp, hf⟩ := polling_of_sample hv
    obtain ⟨w, htrace, hsync, -⟩ := tick_turn hp hf
    obtain rfl : v = w := by simpa [hv] using htrace
    exact hsync
  · by_contra hp
    obtain ⟨v, htrace, -⟩ := tick_turn (by simpa using hp) hf
    exact hnone v htrace

end Sys2Proof.Machine
end

section
/-! SUPPORT. Proofs/WaitFrame.lean: what WAIT leaves unchanged, at any pace and for any line (R154, R179; log entries
15 and 25). -/

namespace Sys2Proof.Machine

/-- A response `TIMEOUT` stands. -/
def TimeoutPosted (s : State) : Prop := s.rspValid = true ∧ s.rspCode = RspKind.code .timeout

/-- From `s` to `t` the framer, chip-select, the bus and, but for an abort, `txstat` and RBUF are left alone. -/
structure WaitFrame (s t : State) : Prop where
  frm : t.frm = s.frm
  hdr : t.hdr = s.hdr
  cnt : t.cnt = s.cnt
  idx : t.idx = s.idx
  dir : t.dir = s.dir
  ferr : t.ferr = s.ferr
  cs : t.cs = s.cs
  busIn : t.busIn = s.busIn
  data : ¬ TimeoutPosted t → t.txstat = s.txstat ∧ t.rbuf = s.rbuf

theorem WaitFrame.refl (s : State) : WaitFrame s s :=
  ⟨rfl, rfl, rfl, rfl, rfl, rfl, rfl, rfl, fun _ => ⟨rfl, rfl⟩⟩

/-- Where no timeout is posted in between, two frames make one. -/
theorem WaitFrame.trans {s t u : State} (h : WaitFrame s t) (hp : ¬ TimeoutPosted t)
    (k : WaitFrame t u) : WaitFrame s u where
  frm := k.frm.trans h.frm
  hdr := k.hdr.trans h.hdr
  cnt := k.cnt.trans h.cnt
  idx := k.idx.trans h.idx
  dir := k.dir.trans h.dir
  ferr := k.ferr.trans h.ferr
  cs := k.cs.trans h.cs
  busIn := k.busIn.trans h.busIn
  data hu := by
    obtain ⟨htx, hrbuf⟩ := h.data hp
    obtain ⟨htx', hrbuf'⟩ := k.data hu
    exact ⟨htx'.trans htx, hrbuf'.trans hrbuf⟩

theorem afterOk_of_wait {s : State} (h : s.ctl = .wait) : afterOk s = respond .ok 0 .none s := by
  simp [afterOk, h]

theorem waitFrame_pollSample (s : State) : WaitFrame s (pollSample s) := by
  obtain ⟨v, p, ff0, d, ⟨-, h⟩ | ⟨-, -, h⟩ | ⟨n, -, -, h⟩⟩ := pollSample_eq s <;> rw [h] <;>
    exact ⟨rfl, rfl, rfl, rfl, rfl, rfl, rfl, rfl, fun _ => ⟨rfl, rfl⟩⟩

/-- WAIT has the one state `C_WAIT`, in which no operation runs (R21, R22). -/
theorem InFlight.at_wait {level : Level} {s : State} (h : InFlight (.wait level) s) :
    s.ctl = .wait ∧ s.frm = .idle := by
  have hc : s.ctl = .wait := by
    have hstage := h.stage
    cases hctl : s.ctl <;> simp [hctl, Ctl.entry, entryOf] at hstage ⊢
  refine ⟨hc, ?_⟩
  by_contra hn
  have hbus := (h.framer hn).1
  simp [hc, Ctl.onBus] at hbus

/-- One small step of a WAIT in progress: a turn of the loop, the answer `OK`, or the abort. -/
theorem waitFrame_tick {level : Level} {s : State} (h : InFlight (.wait level) s) :
    WaitFrame s (tick s) := by
  obtain ⟨hc, hf⟩ := h.at_wait
  cases hr : s.ret with
  | none =>
    rw [tick_polling (by simp [polling, hr, hc]) hf]
    exact waitFrame_pollSample s
  | some r =>
    rw [tick_of_ret hr]
    cases r with
    | ok =>
      rw [onReturn_ok, afterOk_of_wait (by exact hc)]
      exact ⟨rfl, rfl, rfl, rfl, rfl, rfl, rfl, rfl, fun _ => ⟨rfl, rfl⟩⟩
    | timeout =>
      exact ⟨rfl, rfl, rfl, rfl, rfl, rfl, rfl, rfl, fun hnone => absurd ⟨rfl, rfl⟩ hnone⟩
    | busFault =>
      have hfit := h.retLegal .busFault hr
      simp [hc, retFits, Ctl.onBus] at hfit

/-- Any number of small steps of a WAIT, from its acceptance on. -/
theorem waitFrame_advance (level : Level) (s : State) (k : Nat) :
    WaitFrame (acceptWait level s) (advance k (acceptWait level s)) := by
  induction k with
  | zero => exact .refl _
  | succ k ih =>
    rw [advance_succ']
    obtain ⟨hrun, hun⟩ | hdone := (inFlight_accepted (.wait level) s).inFlight_or_completed k
    · have hnone : ¬ TimeoutPosted (advance k (acceptWait level s)) := fun ⟨hvalid, _⟩ =>
        absurd (hun.rspValid.symm.trans hvalid) nofun
      exact ih.trans hnone (waitFrame_tick hrun)
    · have hstill : tick (advance k (acceptWait level s)) = advance k (acceptWait level s) := hdone.tick_eq
      rwa [hstill]

/-- Settles O46: acceptance and the small steps of WAIT write none of these, the abort excepted. -/
theorem waitLeavesTheRest : Obligations.WaitLeavesTheRest := by
  intro s t level hc h
  rw [exec_ready hc] at h
  obtain rfl := Host.Outcome.next.inj h
  have hsame := sameCommand_advance s.pace (acceptWait level s)
  have hframe := waitFrame_advance level s s.pace
  refine ⟨hframe.frm, fun hinv => hframe.frm.trans (hinv.idle hc).1.symm, hframe.hdr, hframe.cnt,
    hframe.idx, hframe.dir, hframe.ferr, hframe.cs, hframe.busIn, hsame.cAddr, hsame.cLen, fun hnone => ?_⟩
  obtain ⟨htx, hrbuf⟩ := hframe.data hnone
  exact ⟨htx, fun j => congrArg (Memory.read · j) hrbuf⟩

end Sys2Proof.Machine
end

section
/-! SUPPORT. Proofs/Exceptions.lean: how a command ends when it fails, and the answers it may end with (R170, R178,
R179; log entry 12). -/

namespace Sys2Proof.Machine

/-! ## The abort (R178, R179) -/

/-- A returned error is taken by the abort (R178). -/
theorem tick_of_error {s : State} {kind : RspKind}
    (h : (s.ret = some .busFault ∧ kind = .busFault) ∨ (s.ret = some .timeout ∧ kind = .timeout)) :
    tick s = abort kind { s with ret := none } := by
  obtain ⟨hr, rfl⟩ | ⟨hr, rfl⟩ := h <;> exact tick_of_ret hr

theorem aborted_abort (kind : RspKind) {s : State} (hf : s.frm = .idle) (hcs : s.cs = false) :
    Aborted kind s (abort kind { s with ret := none }) :=
  ⟨hcs, hf, rfl, rfl, rfl, rfl, rfl⟩

/-- Settles O24: an error finds the framer idle, so the abort leaves the block at rest, where no small step does
anything. -/
theorem abortEndsTheCommand : Obligations.AbortEndsTheCommand := by
  intro s kind hinv herr
  have hf : s.frm = .idle := herr.elim (hinv.idle_of_ret ·.1) (hinv.idle_of_ret ·.1)
  have hcs : s.cs = false := by rw [hinv.csPhase, hf]; rfl
  rw [tick_of_error herr]
  refine ⟨aborted_abort kind hf hcs, rfl, fun n => ?_⟩
  rw [advance_of_ready (abort_ctl ..) (by exact hf) (abort_ret ..)]

/-! ## The table of answers (R170) -/

/-- Settles O38: from its acceptance on a command is in progress and unanswered, or completed with a result the
table allows; the controller is in `C_READY` in the second case alone. -/
theorem onlyTheTableAnswers : Obligations.OnlyTheTableAnswers := by
  intro i s t hc h
  rw [exec_ready hc] at h
  obtain rfl := Host.Outcome.next.inj h
  obtain ⟨-, -, hwithdrawn, htrace, -, -, -, hstraps, -⟩ := accepted_rest i s
  obtain ⟨hrun, hun⟩ | ⟨k, -, -, hready, -, -, hvalid, hcode, hmay, -⟩ :=
    (inFlight_accepted i s).inFlight_or_completed s.pace
  · obtain ⟨es, hes, hno⟩ := hun.events
    refine ⟨fun hready => absurd hready hrun.not_ready, fun _ => ⟨hun.rspValid.trans hwithdrawn, ?_⟩⟩
    rwa [hes, htrace, List.drop_left]
  · exact ⟨fun _ => ⟨hvalid, k, hcode, hstraps ▸ hmay⟩, fun hbusy => absurd hready hbusy⟩

end Sys2Proof.Machine
end

section
/-! SUPPORT. Proofs/ResetAndReads.lean: the reset input, and what the host may read of a command's response
(R27, R28, R32, R200, R201, R211). -/

namespace Sys2Proof.Machine

/-! ## The reset input -/

theorem step_of_reset {s : State} {moves : List HostMove} (h : s.hostIn = .reset :: moves) :
    step s = .next (doReset { s with hostIn := moves }) := by
  rw [← takeMove_of_cons h]
  simp [step, h]

/-- Reset closes an open window and produces nothing else (R201). -/
theorem doReset_trace (s : State) :
    (doReset s).trace = s.trace ++ (if s.cs then [Event.csDeassert] else []) := by
  cases hcs : s.cs <;> simp [doReset, hcs]

/-- Settles O6: reset leaves the block ready with nothing in flight, where no small step does anything. -/
theorem resetInputResetsTheBlock : Obligations.ResetInputResetsTheBlock := by
  intro s moves h
  refine ⟨_, step_of_reset h, doReset_trace _, rfl, rfl, rfl, rfl, rfl, rfl, rfl, rfl, rfl, rfl, rfl, rfl,
    rfl, fun n => ?_⟩
  rw [advance_of_ready rfl rfl rfl]

/-! ## The host's reads (R211) -/

theorem hostReadRsp_eq_some_iff (s : State) (r : BitVec 3 × Byte) :
    hostReadRsp s = some r ↔ s.ctl = .ready ∧ s.rspValid = true ∧ r = (s.rspCode, s.rspRlen) := by
  simp [hostReadRsp, State.ready, and_assoc, eq_comm (a := r)]

theorem hostReadTxstat_eq_some_iff (s : State) (v : BitVec 7) :
    hostReadTxstat s = some v ↔
      s.ctl = .ready ∧ s.rspValid = true ∧ s.cOp = 0b101#3 ∧
        (s.rspCode = RspKind.code .ok ∨ s.rspCode = RspKind.code .txIncomplete) ∧ v = s.txstat := by
  simp [hostReadTxstat, State.ready, and_assoc, eq_comm (a := v)]

theorem hostReadRbuf_eq_some_iff (j : Nat) (s : State) (b : Byte) :
    hostReadRbuf j s = some b ↔
      s.ctl = .ready ∧ s.rspValid = true ∧ j < s.rspRlen.toNat ∧ Memory.read s.rbuf j = some b := by
  simp [hostReadRbuf, State.ready, and_assoc]

/-- Settles O49: each of the three reads is guarded by just these conditions. -/
theorem hostReadsOnlyAPostedResponse : Obligations.HostReadsOnlyAPostedResponse := fun s =>
  ⟨hostReadRsp_eq_some_iff s, hostReadTxstat_eq_some_iff s, fun j => hostReadRbuf_eq_some_iff j s⟩

/-- While a command runs the host reads nothing. -/
theorem hostReads_of_busy {s : State} (h : s.ctl ≠ .ready) :
    hostReadRsp s = none ∧ hostReadTxstat s = none ∧ ∀ j, hostReadRbuf j s = none := by
  simp [hostReadRsp, hostReadTxstat, hostReadRbuf, State.ready, h]

/-! ## What the response carries -/

/-- The extra data of a good response (R90), read off the state it leaves: `txstat` after TX, the bytes received
after a primitive read. -/
def goodInfo (i : Instr) (t : State) : RspInfo :=
  match i with
  | .tx _ => .txstat t.txstat
  | .rburst _ _ | .rdTxstatus => .data (Memory.firstBytes t.rbuf (readLength i))
  | .strobe _ | .wburst _ _ | .hdrReserved _ | .sidle | .stx | .wrPatable _ | .wrConfig _ | .wrTxfifo _
  | .init | .wait _ | .cmdReserved010 | .cmdReserved111 => .none

/-- The extra data of a response; one that is not good has none (R90, R178). -/
def responseInfo (i : Instr) (k : RspKind) (t : State) : RspInfo :=
  if k = .ok ∨ k = .txIncomplete then goodInfo i t else .none

/-- The instruction `i`, its events so far `before`, is answered in `t` with `k`: the length R28 gives and the data
R90 gives. -/
structure Posted (i : Instr) (k : RspKind) (before : List Event) (t : State) : Prop where
  ctl : t.ctl = .ready
  rspValid : t.rspValid = true
  rspCode : t.rspCode = RspKind.code k
  rspRlen : t.rspRlen = BitVec.ofNat 8 (validLength i k)
  event : ∃ es, t.trace = before ++ es ++ [.rsp k (responseInfo i k t)]

/-- The events before the answer may be counted from earlier on. -/
theorem Posted.since {i : Instr} {k : RspKind} {before es : List Event} {t : State}
    (h : Posted i k (before ++ es) t) : Posted i k before t :=
  let ⟨fs, hfs⟩ := h.event
  ⟨h.ctl, h.rspValid, h.rspCode, h.rspRlen, es ++ fs, by rw [hfs, List.append_assoc before]⟩

/-- A result other than `OK` and `TX_INCOMPLETE` comes with no data. -/
theorem posted_without_data {i : Instr} {k : RspKind} {s t : State} (hk : ¬ (k = .ok ∨ k = .txIncomplete))
    (ha : Answered k s t) (hlen : t.rspRlen = 0) (hinfo : t.trace = s.trace ++ [.rsp k .none]) :
    Posted i k s.trace t :=
  ⟨ha.ctl, ha.rspValid, ha.rspCode, by simp [hlen, validLength, hk], [], by simp [hinfo, responseInfo, hk]⟩

/-- The answer `OK` with the length and the data of its instruction. -/
theorem posted_respond_ok {i : Instr} {n : Byte} {info : RspInfo} {s : State} (hn : n.toNat = readLength i)
    (hinfo : info = goodInfo i s) : Posted i .ok s.trace (respond .ok n info s) :=
  ⟨rfl, rfl, rfl, by simp [validLength, ← hn], [], by rw [hinfo, List.append_nil]; rfl⟩

/-- Which primitives are reads, and what they read (R88, R113). -/
theorem read_of_accepted {i : Instr} (hi : entryOf i = .prim) (s : State) :
    ((accepted i s).cOp = 0b011#3 ∧ (accepted i s).cLen.toNat = readLength i ∧
      ∀ t, goodInfo i t = .data (Memory.firstBytes t.rbuf (readLength i))) ∨
    ((accepted i s).cOp ≠ 0b011#3 ∧ readLength i = 0 ∧ ∀ t, goodInfo i t = .none) := by
  cases i with
  | rburst | rdTxstatus => exact .inl ⟨rfl, rfl, fun _ => rfl⟩
  | init | tx | wait | hdrReserved | cmdReserved010 | cmdReserved111 => cases hi
  | _ => exact .inr ⟨by simp [accepted, acceptStrobe, acceptWburst], rfl, fun _ => rfl⟩

/-- INIT and WAIT leave no byte of RBUF valid (R28). -/
theorem no_data_of_entry {i : Instr} (hi : entryOf i = .initPa ∨ entryOf i = .wait) :
    readLength i = 0 ∧ ∀ t, goodInfo i t = .none := by
  cases i with
  | init | wait => exact ⟨rfl, fun _ => rfl⟩
  | _ => simp [entryOf] at hi

/-- A primitive that has returned `Ok` is answered with the bytes its instruction reads (R113, R116). -/
theorem posted_primDone {i : Instr} {a s : State} (hi : entryOf i = .prim) (hop : s.cOp = (accepted i a).cOp)
    (hlen : s.cLen = (accepted i a).cLen) : Posted i .ok s.trace (primDone s) := by
  obtain ⟨hread, hbytes, hinfo⟩ | ⟨hread, hnone, hinfo⟩ := read_of_accepted hi a <;> rw [← hop] at hread
  · rw [← hlen] at hbytes
    rw [primDone, if_pos hread]
    exact posted_respond_ok hbytes (by rw [hinfo, hbytes])
  · rw [primDone, if_neg hread]
    exact posted_respond_ok hnone.symm (hinfo s).symm

/-- TX step 6 is answered with the masked status byte (R136). -/
theorem posted_txStatusDone {i : Instr} (hi : entryOf i = .txSidle) (s : State) :
    ∃ k, Posted i k s.trace (txStatusDone s) := by
  obtain ⟨status, d, ht, -⟩ := txStatusDone_eq s
  have hk := txResult_ok_or_incomplete (maskStatus status)
  rw [ht]
  cases i with
  | tx len =>
    exact ⟨_, rfl, rfl, rfl, by rw [validLength, if_pos hk]; rfl, [],
      by rw [responseInfo, if_pos hk, List.append_nil]; rfl⟩
  | _ => cases hi

/-- The good answers (R116, R130, R136, R154). -/
theorem posted_afterOk {i : Instr} {a s : State} {k : RspKind} (hstage : s.ctl.entry = entryOf i)
    (hop : s.cOp = (accepted i a).cOp) (hlen : s.cLen = (accepted i a).cLen)
    (hends : endsWith (some .ok) s.ctl k = true) : ∃ k, Posted i k s.trace (afterOk s) := by
  cases hc : s.ctl <;> rw [hc] at hstage hends
  case prim => exact afterOk_of_prim hc ▸ ⟨_, posted_primDone hstage.symm hop hlen⟩
  case txStatus => exact afterOk_of_txStatus hc ▸ posted_txStatusDone hstage.symm s
  case initCfg =>
    obtain ⟨hnone, hinfo⟩ := no_data_of_entry (.inl hstage.symm)
    exact afterOk_of_initCfg hc ▸ ⟨_, posted_respond_ok hnone.symm (hinfo s).symm⟩
  case wait =>
    obtain ⟨hnone, hinfo⟩ := no_data_of_entry (.inr hstage.symm)
    exact afterOk_of_wait hc ▸ ⟨_, posted_respond_ok hnone.symm (hinfo s).symm⟩
  all_goals cases hends

/-- The small step that answers a command posts what R28 and R90 give it. -/
theorem InFlight.posted {i : Instr} {a s : State} (h : InFlight i s) (hk : SameCommand (accepted i a) s)
    (hready : (tick s).ctl = .ready) : ∃ k, Posted i k s.trace (tick s) := by
  obtain hsilent | ⟨k, hends, -⟩ := tick_silentOrEnds s
  · exact absurd (hsilent.ready hready) h.not_ready
  have hf := h.idle_of_endsWith hends
  cases hr : s.ret <;> rw [hr] at hends
  case none =>
    obtain ⟨hc, -⟩ : s.ctl = .illegal ∧ k = .cmdIllegal := by simpa [endsWith] using hends
    rw [tick_of_illegal hc hf hr]
    exact ⟨_, posted_without_data (by decide) (answered_respond _ _ _ s) rfl rfl⟩
  case some r =>
    rw [tick_of_ret hr]
    cases r with
    | busFault | timeout => exact ⟨_, posted_without_data (s := s) (by decide) (answered_abort _ _) rfl rfl⟩
    | ok => exact posted_afterOk (s := { s with ret := none }) h.stage hk.cOp hk.cLen hends

/-- A command that is over was ended by a small step of its own. -/
theorem InFlight.last_step {i : Instr} {s : State} (h : InFlight i s) {n : Nat}
    (hready : (advance n s).ctl = .ready) :
    ∃ m, InFlight i (advance m s) ∧ advance n s = tick (advance m s) := by
  induction n with
  | zero => exact absurd hready h.not_ready
  | succ n ih =>
    rw [advance_succ'] at hready ⊢
    obtain ⟨hrun, -⟩ | hdone := h.inFlight_or_completed n
    · exact ⟨n, hrun, rfl⟩
    · rw [hdone.tick_eq] at hready ⊢
      exact ih hready

/-- A command that is over has posted what R28 and R90 give it. -/
theorem posted_of_ended {i : Instr} {s : State} {n : Nat} (hready : (advance n (accepted i s)).ctl = .ready) :
    ∃ k, Posted i k s.trace (advance n (accepted i s)) := by
  have hstart := inFlight_accepted i s
  obtain ⟨-, -, -, htrace, -⟩ := accepted_rest i s
  obtain ⟨m, hrun, hlast⟩ := hstart.last_step hready
  obtain ⟨-, hun⟩ | ⟨k, info, es, hc, -⟩ := hstart.inFlight_or_completed m
  · obtain ⟨es, hes, -⟩ := hun.events
    rw [hlast] at hready ⊢
    obtain ⟨k, hp⟩ := hrun.posted (sameCommand_advance m _) hready
    rw [hes, htrace] at hp
    exact ⟨k, hp.since⟩
  · exact absurd hc hrun.not_ready

/-! ## The reads after a command -/

theorem validLength_lt (i : Instr) (k : RspKind) : validLength i k < 256 := by
  have hread : readLength i < 256 := by
    cases i with
    | rburst addr len => exact len.isLt
    | _ => simp [readLength]
  unfold validLength
  split <;> omega

theorem Posted.rspRlen_toNat {i : Instr} {k : RspKind} {before : List Event} {t : State}
    (h : Posted i k before t) : t.rspRlen.toNat = validLength i k := by
  rw [h.rspRlen, BitVec.toNat_ofNat, Nat.mod_eq_of_lt (validLength_lt i k)]

/-- TX alone has its command code (R88). -/
theorem accepted_cOp_tx_iff (i : Instr) (s : State) : (accepted i s).cOp = 0b101#3 ↔ entryOf i = .txSidle := by
  cases i <;>
    simp [accepted, acceptStrobe, acceptWburst, acceptRburst, acceptReserved, acceptInit, acceptTx, acceptWait,
      entryOf]

/-- A response carries `txstat` where it is a good one of TX (R90). -/
theorem responseInfo_eq_txstat_iff (i : Instr) (k : RspKind) (t : State) (v : BitVec 7) :
    responseInfo i k t = .txstat v ↔
      entryOf i = .txSidle ∧ (k = .ok ∨ k = .txIncomplete) ∧ v = t.txstat := by
  unfold responseInfo
  split <;> cases i <;> simp_all [goodInfo, entryOf, eq_comm]

/-- The bytes a response carries are all the valid ones (R28, R32). -/
theorem bytes_of_responseInfo {i : Instr} {k : RspKind} {t : State} {bytes : List Byte}
    (h : responseInfo i k t = .data bytes) : bytes = Memory.firstBytes t.rbuf (validLength i k) := by
  unfold responseInfo at h
  split at h
  case isTrue hk =>
    rw [validLength, if_pos hk]
    cases i <;> cases h <;> rfl
  case isFalse => cases h

/-- `txstat` is readable just where the response carries it (R27). -/
theorem Posted.hostReadTxstat_iff {i : Instr} {k : RspKind} {before : List Event} {t : State}
    (h : Posted i k before t) (hop : t.cOp = 0b101#3 ↔ entryOf i = .txSidle) (v : BitVec 7) :
    hostReadTxstat t = some v ↔ responseInfo i k t = .txstat v := by
  have hcode : (t.rspCode = RspKind.code .ok ∨ t.rspCode = RspKind.code .txIncomplete) ↔
      (k = .ok ∨ k = .txIncomplete) := by
    rw [h.rspCode]
    exact ⟨.imp RspKind.code_inj RspKind.code_inj, .imp (congrArg _) (congrArg _)⟩
  rw [hostReadTxstat_eq_some_iff, responseInfo_eq_txstat_iff, hop, hcode]
  simp [h.ctl, h.rspValid]

/-- The valid bytes of RBUF are readable, and no others (R32). -/
theorem Posted.hostReadRbuf_eq {i : Instr} {k : RspKind} {before : List Event} {t : State}
    (h : Posted i k before t) (j : Nat) :
    hostReadRbuf j t = if j < validLength i k then Memory.read t.rbuf j else none := by
  simp [hostReadRbuf, State.ready, h.ctl, h.rspValid, h.rspRlen_toNat]

/-- Settles O50: the response is posted with the length and the data of its instruction, and the invariant has the
valid bytes of RBUF held. -/
theorem hostReadsWhatTheCommandLeft : Obligations.HostReadsWhatTheCommandLeft := by
  intro i s t hinv hc h
  rw [exec_ready hc] at h
  obtain rfl := Host.Outcome.next.inj h
  refine ⟨hostReads_of_busy, fun hready => ?_⟩
  obtain ⟨k, hp⟩ := posted_of_ended hready
  obtain ⟨es, hes⟩ := hp.event
  have hafter : (advance s.pace (accepted i s)).Inv :=
    advance_keeps (P := State.Inv) (fun _ => inv_tick) _ (inv_accepted_alone hinv hc i)
  have hheld := hafter.validBytes hp.rspValid
  rw [hp.rspRlen_toNat] at hheld
  have hop := accepted_cOp_tx_iff i s
  rw [← (sameCommand_advance s.pace (accepted i s)).cOp] at hop
  refine ⟨k, _, es, hes,
    (hostReadRsp_eq_some_iff _ _).2 ⟨hp.ctl, hp.rspValid, by rw [hp.rspCode, hp.rspRlen]⟩,
    hp.hostReadTxstat_iff hop, fun j => ?_, fun bytes hbytes j => ?_⟩ <;> rw [hp.hostReadRbuf_eq]
  · by_cases hj : j < validLength i k <;> simp [hj, hheld]
  · rw [bytes_of_responseInfo hbytes, (Memory.firstBytes_held hheld).2]

end Sys2Proof.Machine
end
